-- ==== Sys2Proof/Word.lean ====
section
/-! DEFINITION. The word types of the CHIP-8 core: bytes, 16-bit words, 12-bit addresses and the
4-bit numbers that name registers and count sprite rows (spec/00_scope.md R6, R11;
spec/30_encoding.md R71, R73). -/

namespace Sys2Proof

/-- An 8-bit value: a V register, a timer, a memory cell (10_state.md R20). -/
abbrev Byte := BitVec 8

/-- A 16-bit value: PC, I, a STACK entry, an opcode (10_state.md R20, 30_encoding.md R70). -/
abbrev Word := BitVec 16

/-- A 12-bit value: an address of the 4096-byte memory, or the operand NNN
(20_memory.md R50, 30_encoding.md R71). -/
abbrev Addr := BitVec 12

/-- The number of a V register, 0..15, from an opcode field X or Y (10_state.md R21). -/
abbrev Reg := Fin 16

/-- The 4-bit unsigned count N of DXYN (30_encoding.md R71, R73). -/
abbrev Count := Fin 16

end Sys2Proof
end

