-- ==== Sys2Proof/Syntax.lean ====
section
/-! DEFINITION. The 34 instructions, one constructor for each row of spec/opcode_table.json, in
the table's order (30_encoding.md R74). The operand types are exactly the values an encoding admits
(30_encoding.md R71, R73, R78): a register number is one of 0..15, N one of 0..15, NN 8 bits,
NNN 12 bits. -/

namespace Sys2Proof

/-- The instruction set. The operands stand in the order of the mnemonic's operands. -/
inductive Instr where
  /-- 00E0 CLS (43_display.md R140). -/
  | cls
  /-- 00EE RET (40_flow.md R100). -/
  | ret
  /-- 1NNN JP NNN (R101). -/
  | jp (nnn : Addr)
  /-- 2NNN CALL NNN (R102). -/
  | call (nnn : Addr)
  /-- 3XNN SE VX, NN (R103). -/
  | seImm (x : Reg) (nn : Byte)
  /-- 4XNN SNE VX, NN (R104). -/
  | sneImm (x : Reg) (nn : Byte)
  /-- 5XY0 SE VX, VY (R105). -/
  | seReg (x y : Reg)
  /-- 6XNN LD VX, NN (41_alu.md R110). -/
  | ldImm (x : Reg) (nn : Byte)
  /-- 7XNN ADD VX, NN (R111). -/
  | addImm (x : Reg) (nn : Byte)
  /-- 8XY0 LD VX, VY (R112). -/
  | ldReg (x y : Reg)
  /-- 8XY1 OR VX, VY (R113). -/
  | orReg (x y : Reg)
  /-- 8XY2 AND VX, VY (R114). -/
  | andReg (x y : Reg)
  /-- 8XY3 XOR VX, VY (R115). -/
  | xorReg (x y : Reg)
  /-- 8XY4 ADD VX, VY (R116). -/
  | addReg (x y : Reg)
  /-- 8XY5 SUB VX, VY (R117). -/
  | subReg (x y : Reg)
  /-- 8XY6 SHR VX, VY (R118). -/
  | shrReg (x y : Reg)
  /-- 8XY7 SUBN VX, VY (R119). -/
  | subnReg (x y : Reg)
  /-- 8XYE SHL VX, VY (R120). -/
  | shlReg (x y : Reg)
  /-- 9XY0 SNE VX, VY (40_flow.md R106). -/
  | sneReg (x y : Reg)
  /-- ANNN LD I, NNN (42_index_memory.md R130). -/
  | ldI (nnn : Addr)
  /-- BNNN JP V0, NNN (40_flow.md R107). -/
  | jpV0 (nnn : Addr)
  /-- CXNN RND VX, NN (41_alu.md R121). -/
  | rnd (x : Reg) (nn : Byte)
  /-- DXYN DRW VX, VY, N (43_display.md R141). -/
  | drw (x y : Reg) (n : Count)
  /-- EX9E SKP VX (44_keys_timers.md R150). -/
  | skp (x : Reg)
  /-- EXA1 SKNP VX (R151). -/
  | sknp (x : Reg)
  /-- FX07 LD VX, DT (R152). -/
  | ldVxDt (x : Reg)
  /-- FX0A LD VX, K (R153). -/
  | ldVxK (x : Reg)
  /-- FX15 LD DT, VX (R154). -/
  | ldDtVx (x : Reg)
  /-- FX18 LD ST, VX (R155). -/
  | ldStVx (x : Reg)
  /-- FX1E ADD I, VX (42_index_memory.md R131). -/
  | addI (x : Reg)
  /-- FX29 LD F, VX (R132). -/
  | ldF (x : Reg)
  /-- FX33 LD B, VX (R133). -/
  | ldB (x : Reg)
  /-- FX55 LD [I], VX (R134). -/
  | ldMemVx (x : Reg)
  /-- FX65 LD VX, [I] (R135). -/
  | ldVxMem (x : Reg)
  deriving DecidableEq, Repr

end Sys2Proof
end

