-- ==== Sys2Proof/WellFormed.lean ====
section
/-! DEFINITION. What is well formed.

An `Instr` carries its own well-formedness in its operand types: by 30_encoding.md R78 no defined
instruction has an ignored or forbidden operand bit, so every value of every operand is legal. What
can be ill formed, and is checked here, is a 16-bit opcode (30_encoding.md R74, R76), the row an
instruction stands for, and a ROM image (60_exceptions.md R181). -/

namespace Sys2Proof

/-- A row of the opcode map: an opcode `op` selects it when `op &&& mask = value`
(30_encoding.md R74, columns mask and match). -/
structure OpcodeRow where
  mask : Word
  value : Word
  deriving DecidableEq, Repr

/-- The row selects the opcode (30_encoding.md R74). -/
def OpcodeRow.selects (r : OpcodeRow) (op : Word) : Bool := op &&& r.mask == r.value

/-- The opcode map of 30_encoding.md R74, rows 1 to 9: groups 0 to 7. -/
def opcodeMapLow : List OpcodeRow :=
  [⟨0xFFFF, 0x00E0⟩, ⟨0xFFFF, 0x00EE⟩, ⟨0xF000, 0x1000⟩, ⟨0xF000, 0x2000⟩, ⟨0xF000, 0x3000⟩,
   ⟨0xF000, 0x4000⟩, ⟨0xF00F, 0x5000⟩, ⟨0xF000, 0x6000⟩, ⟨0xF000, 0x7000⟩]

/-- Rows 10 to 19: groups 8 and 9. -/
def opcodeMapAlu : List OpcodeRow :=
  [⟨0xF00F, 0x8000⟩, ⟨0xF00F, 0x8001⟩, ⟨0xF00F, 0x8002⟩, ⟨0xF00F, 0x8003⟩, ⟨0xF00F, 0x8004⟩,
   ⟨0xF00F, 0x8005⟩, ⟨0xF00F, 0x8006⟩, ⟨0xF00F, 0x8007⟩, ⟨0xF00F, 0x800E⟩, ⟨0xF00F, 0x9000⟩]

/-- Rows 20 to 34: groups A to F. -/
def opcodeMapHigh : List OpcodeRow :=
  [⟨0xF000, 0xA000⟩, ⟨0xF000, 0xB000⟩, ⟨0xF000, 0xC000⟩, ⟨0xF000, 0xD000⟩, ⟨0xF0FF, 0xE09E⟩,
   ⟨0xF0FF, 0xE0A1⟩, ⟨0xF0FF, 0xF007⟩, ⟨0xF0FF, 0xF00A⟩, ⟨0xF0FF, 0xF015⟩, ⟨0xF0FF, 0xF018⟩,
   ⟨0xF0FF, 0xF01E⟩, ⟨0xF0FF, 0xF029⟩, ⟨0xF0FF, 0xF033⟩, ⟨0xF0FF, 0xF055⟩, ⟨0xF0FF, 0xF065⟩]

/-- The complete opcode map, 34 rows (30_encoding.md R74). -/
def opcodeMap : List OpcodeRow := opcodeMapLow ++ opcodeMapAlu ++ opcodeMapHigh

/-- An opcode is well formed when it selects a row; otherwise it is an unknown opcode
(30_encoding.md R76). -/
def opcodeWf (op : Word) : Bool := opcodeMap.any (fun r => r.selects op)

/-- The row of the opcode map an instruction stands for (30_encoding.md R74). -/
def Instr.row : Instr → OpcodeRow
  | .cls => ⟨0xFFFF, 0x00E0⟩
  | .ret => ⟨0xFFFF, 0x00EE⟩
  | .jp _ => ⟨0xF000, 0x1000⟩
  | .call _ => ⟨0xF000, 0x2000⟩
  | .seImm _ _ => ⟨0xF000, 0x3000⟩
  | .sneImm _ _ => ⟨0xF000, 0x4000⟩
  | .seReg _ _ => ⟨0xF00F, 0x5000⟩
  | .ldImm _ _ => ⟨0xF000, 0x6000⟩
  | .addImm _ _ => ⟨0xF000, 0x7000⟩
  | .ldReg _ _ => ⟨0xF00F, 0x8000⟩
  | .orReg _ _ => ⟨0xF00F, 0x8001⟩
  | .andReg _ _ => ⟨0xF00F, 0x8002⟩
  | .xorReg _ _ => ⟨0xF00F, 0x8003⟩
  | .addReg _ _ => ⟨0xF00F, 0x8004⟩
  | .subReg _ _ => ⟨0xF00F, 0x8005⟩
  | .shrReg _ _ => ⟨0xF00F, 0x8006⟩
  | .subnReg _ _ => ⟨0xF00F, 0x8007⟩
  | .shlReg _ _ => ⟨0xF00F, 0x800E⟩
  | .sneReg _ _ => ⟨0xF00F, 0x9000⟩
  | .ldI _ => ⟨0xF000, 0xA000⟩
  | .jpV0 _ => ⟨0xF000, 0xB000⟩
  | .rnd _ _ => ⟨0xF000, 0xC000⟩
  | .drw _ _ _ => ⟨0xF000, 0xD000⟩
  | .skp _ => ⟨0xF0FF, 0xE09E⟩
  | .sknp _ => ⟨0xF0FF, 0xE0A1⟩
  | .ldVxDt _ => ⟨0xF0FF, 0xF007⟩
  | .ldVxK _ => ⟨0xF0FF, 0xF00A⟩
  | .ldDtVx _ => ⟨0xF0FF, 0xF015⟩
  | .ldStVx _ => ⟨0xF0FF, 0xF018⟩
  | .addI _ => ⟨0xF0FF, 0xF01E⟩
  | .ldF _ => ⟨0xF0FF, 0xF029⟩
  | .ldB _ => ⟨0xF0FF, 0xF033⟩
  | .ldMemVx _ => ⟨0xF0FF, 0xF055⟩
  | .ldVxMem _ => ⟨0xF0FF, 0xF065⟩

/-- The instruction stands for a row of the opcode map. Its operands need no check: their types
hold exactly the legal values (30_encoding.md R78). -/
def Instr.wf (i : Instr) : Bool := opcodeMap.contains i.row

/-- A ROM image is well formed when it fits the program region, at most 3584 bytes
(00_scope.md R6 ROM_MAX, 60_exceptions.md R181). Its bytes are not interpreted (20_memory.md R68). -/
def romWf (rom : List Byte) : Bool := decide (rom.length ≤ 3584)

end Sys2Proof
end

