-- ==== Sys2Proof/Decode.lean ====
section
/-! DEFINITION. The decoder (30_encoding.md R70, R71, R75) and, after it, the encoder written from
the formats of R72 and the map of R74. Decoding reads nothing but the 16 opcode bits (R80) and is
total: an opcode that selects no row is rejected by name (R76). -/

namespace Sys2Proof

/-- Why a decoding is rejected. -/
inductive DecodeError where
  /-- No row of the opcode map matches (30_encoding.md R76). -/
  | unknownOpcode (op : Word)
  /-- Fewer than the two bytes of an instruction are there (30_encoding.md R70). -/
  | truncated
  deriving DecidableEq, Repr

/-- OP, bits 15..12 (30_encoding.md R71). -/
def fieldOp (op : Word) : Nat := op.toNat / 4096

/-- X, bits 11..8. -/
def fieldX (op : Word) : Reg := ⟨op.toNat / 256 % 16, Nat.mod_lt _ (by decide)⟩

/-- Y, bits 7..4. -/
def fieldY (op : Word) : Reg := ⟨op.toNat / 16 % 16, Nat.mod_lt _ (by decide)⟩

/-- N, bits 3..0. -/
def fieldN (op : Word) : Count := ⟨op.toNat % 16, Nat.mod_lt _ (by decide)⟩

/-- NN, bits 7..0. -/
def fieldNN (op : Word) : Byte := BitVec.ofNat 8 op.toNat

/-- NNN, bits 11..0. -/
def fieldNNN (op : Word) : Addr := BitVec.ofNat 12 op.toNat

/-- Group 0 compares all 16 bits (30_encoding.md R75). -/
def decode0 (op : Word) : Except DecodeError Instr :=
  match op.toNat with
  | 0x00E0 => .ok .cls
  | 0x00EE => .ok .ret
  | _ => .error (.unknownOpcode op)

/-- Group 8 selects on the trailing nibble (30_encoding.md R75). -/
def decode8 (op : Word) : Except DecodeError Instr :=
  match (fieldN op).val with
  | 0x0 => .ok (.ldReg (fieldX op) (fieldY op))
  | 0x1 => .ok (.orReg (fieldX op) (fieldY op))
  | 0x2 => .ok (.andReg (fieldX op) (fieldY op))
  | 0x3 => .ok (.xorReg (fieldX op) (fieldY op))
  | 0x4 => .ok (.addReg (fieldX op) (fieldY op))
  | 0x5 => .ok (.subReg (fieldX op) (fieldY op))
  | 0x6 => .ok (.shrReg (fieldX op) (fieldY op))
  | 0x7 => .ok (.subnReg (fieldX op) (fieldY op))
  | 0xE => .ok (.shlReg (fieldX op) (fieldY op))
  | _ => .error (.unknownOpcode op)

/-- Group E selects on the trailing byte (30_encoding.md R75). -/
def decodeE (op : Word) : Except DecodeError Instr :=
  match (fieldNN op).toNat with
  | 0x9E => .ok (.skp (fieldX op))
  | 0xA1 => .ok (.sknp (fieldX op))
  | _ => .error (.unknownOpcode op)

/-- Group F selects on the trailing byte (30_encoding.md R75). -/
def decodeF (op : Word) : Except DecodeError Instr :=
  match (fieldNN op).toNat with
  | 0x07 => .ok (.ldVxDt (fieldX op))
  | 0x0A => .ok (.ldVxK (fieldX op))
  | 0x15 => .ok (.ldDtVx (fieldX op))
  | 0x18 => .ok (.ldStVx (fieldX op))
  | 0x1E => .ok (.addI (fieldX op))
  | 0x29 => .ok (.ldF (fieldX op))
  | 0x33 => .ok (.ldB (fieldX op))
  | 0x55 => .ok (.ldMemVx (fieldX op))
  | 0x65 => .ok (.ldVxMem (fieldX op))
  | _ => .error (.unknownOpcode op)

/-- Groups 5 and 9 require the trailing nibble 0 (30_encoding.md R75). -/
def decodeNibble0 (op : Word) (i : Instr) : Except DecodeError Instr :=
  if (fieldN op).val = 0 then .ok i else .error (.unknownOpcode op)

/-- The decode procedure of 30_encoding.md R75. The leading nibble of a 16-bit opcode is one of
0..15, so the last arm is never taken. -/
def decode (op : Word) : Except DecodeError Instr :=
  match fieldOp op with
  | 0x0 => decode0 op
  | 0x1 => .ok (.jp (fieldNNN op))
  | 0x2 => .ok (.call (fieldNNN op))
  | 0x3 => .ok (.seImm (fieldX op) (fieldNN op))
  | 0x4 => .ok (.sneImm (fieldX op) (fieldNN op))
  | 0x5 => decodeNibble0 op (.seReg (fieldX op) (fieldY op))
  | 0x6 => .ok (.ldImm (fieldX op) (fieldNN op))
  | 0x7 => .ok (.addImm (fieldX op) (fieldNN op))
  | 0x8 => decode8 op
  | 0x9 => decodeNibble0 op (.sneReg (fieldX op) (fieldY op))
  | 0xA => .ok (.ldI (fieldNNN op))
  | 0xB => .ok (.jpV0 (fieldNNN op))
  | 0xC => .ok (.rnd (fieldX op) (fieldNN op))
  | 0xD => .ok (.drw (fieldX op) (fieldY op) (fieldN op))
  | 0xE => decodeE op
  | 0xF => decodeF op
  | _ => .error (.unknownOpcode op)

/-- Two bytes as the fetch combines them: the byte at the lower address in bits 15..8
(20_memory.md R52, R57). -/
def bigEndian (hi lo : Byte) : Word := BitVec.ofNat 16 (hi.toNat * 256 + lo.toNat)

/-- Decoding a byte sequence: the first two bytes are one instruction, the rest is returned
(30_encoding.md R70, R81). -/
def decodeBytes : List Byte → Except DecodeError (Instr × List Byte)
  | hi :: lo :: rest =>
    match decode (bigEndian hi lo) with
    | .ok i => .ok (i, rest)
    | .error e => .error e
  | _ => .error .truncated

/-- Format A: OP, NNN (30_encoding.md R72). -/
def encodeA (op : Nat) (nnn : Addr) : Word := BitVec.ofNat 16 (op * 4096 + nnn.toNat)

/-- Format I: OP, X, NN. -/
def encodeI (op : Nat) (x : Reg) (nn : Byte) : Word :=
  BitVec.ofNat 16 (op * 4096 + x.val * 256 + nn.toNat)

/-- Formats R and D: OP, X, Y and a last nibble, the fixed selector or N. -/
def encodeR (op : Nat) (x y : Reg) (last : Nat) : Word :=
  BitVec.ofNat 16 (op * 4096 + x.val * 256 + y.val * 16 + last)

/-- Format S: OP, X and the fixed trailing byte. -/
def encodeS (op : Nat) (x : Reg) (selector : Nat) : Word :=
  BitVec.ofNat 16 (op * 4096 + x.val * 256 + selector)

/-- The opcode of an instruction (30_encoding.md R72, R74). -/
def encode : Instr → Word
  | .cls => 0x00E0
  | .ret => 0x00EE
  | .jp nnn => encodeA 0x1 nnn
  | .call nnn => encodeA 0x2 nnn
  | .seImm x nn => encodeI 0x3 x nn
  | .sneImm x nn => encodeI 0x4 x nn
  | .seReg x y => encodeR 0x5 x y 0x0
  | .ldImm x nn => encodeI 0x6 x nn
  | .addImm x nn => encodeI 0x7 x nn
  | .ldReg x y => encodeR 0x8 x y 0x0
  | .orReg x y => encodeR 0x8 x y 0x1
  | .andReg x y => encodeR 0x8 x y 0x2
  | .xorReg x y => encodeR 0x8 x y 0x3
  | .addReg x y => encodeR 0x8 x y 0x4
  | .subReg x y => encodeR 0x8 x y 0x5
  | .shrReg x y => encodeR 0x8 x y 0x6
  | .subnReg x y => encodeR 0x8 x y 0x7
  | .shlReg x y => encodeR 0x8 x y 0xE
  | .sneReg x y => encodeR 0x9 x y 0x0
  | .ldI nnn => encodeA 0xA nnn
  | .jpV0 nnn => encodeA 0xB nnn
  | .rnd x nn => encodeI 0xC x nn
  | .drw x y n => encodeR 0xD x y n.val
  | .skp x => encodeS 0xE x 0x9E
  | .sknp x => encodeS 0xE x 0xA1
  | .ldVxDt x => encodeS 0xF x 0x07
  | .ldVxK x => encodeS 0xF x 0x0A
  | .ldDtVx x => encodeS 0xF x 0x15
  | .ldStVx x => encodeS 0xF x 0x18
  | .addI x => encodeS 0xF x 0x1E
  | .ldF x => encodeS 0xF x 0x29
  | .ldB x => encodeS 0xF x 0x33
  | .ldMemVx x => encodeS 0xF x 0x55
  | .ldVxMem x => encodeS 0xF x 0x65

/-- The byte of an opcode at the lower address: bits 15..8 (20_memory.md R57). -/
def highByte (op : Word) : Byte := BitVec.ofNat 8 (op.toNat / 256)

/-- The byte of an opcode at the higher address: bits 7..0. -/
def lowByte (op : Word) : Byte := BitVec.ofNat 8 op.toNat

/-- An instruction as it stands in a ROM (30_encoding.md R81). -/
def encodeBytes (i : Instr) : List Byte := [highByte (encode i), lowByte (encode i)]

/-- The first word of an instruction given as the opcode table numbers its bits: the low `nbits`
bits of `w`, every bit above them 0. Every instruction of this core is one word. -/
def tableWord (nbits w : Nat) : Word := BitVec.ofNat 16 (w % 2 ^ nbits)

/-- What the decoder reads from a word laid out in memory as the hardware stores it. -/
def decodeTableWord (nbits w : Nat) : Option Instr :=
  match decodeBytes [highByte (tableWord nbits w), lowByte (tableWord nbits w)] with
  | .ok (i, _) => some i
  | .error _ => none

end Sys2Proof
end

