-- ==== Sys2Proof/Config.lean ====
section
/-! DEFINITION. What the host or the builder of the core fixes, and the one free value.

* `Inputs`: the run-time configuration inputs of 00_scope.md R7.
* `Build`: the build-time parameters of 00_scope.md R8.
* `Config.freeRand`: the random bytes of 00_scope.md R10, under no law.

Inputs and parameters are no architectural state (10_state.md R39); they stand in `State` as the
model's own fields so that every statement holds for each of their values (log entries 1 and 2). -/

namespace Sys2Proof

/-- The run-time configuration inputs: constant over a run unless the host changes them between
operations; no instruction reads or writes them by name (00_scope.md R7). -/
structure Inputs where
  /-- HALT_ON_UNKNOWN: an unknown opcode halts the core. -/
  haltOnUnknown : Bool
  /-- ADVANCE_I: FX55 and FX65 add X + 1 to I. -/
  advanceI : Bool
  /-- STEP_MODE: a step executes only when STEP_REQ is latched. -/
  stepMode : Bool
  deriving DecidableEq, Repr

/-- The build-time parameters (00_scope.md R8). FONT_BASE + 80 <= 0x200, so FONT_BASE is one of
0..432; FONT_TABLE is 16 glyphs of 5 bytes (10_state.md R44). -/
structure Build where
  /-- FONT_BASE. -/
  fontBase : Fin 433
  /-- FONT_TABLE, glyph by glyph. -/
  fontTable : Vector (Vector Byte 5) 16
  deriving DecidableEq, Repr

/-- The free RAND bytes: the `n`-th byte the environment supplies when the host has supplied none
itself. No body, so nothing can be proved of its values (00_scope.md R10, log entry 4). -/
opaque Config.freeRand : Nat → Byte

end Sys2Proof
end

