-- ==== Sys2Proof/Machine/Params.lean ====
section
/-! DEFINITION. The defaults of the parameters and inputs, and what a memory cell that nothing has
written since reset reads as (spec/00_scope.md R7, R8; spec/10_state.md R43, R44). -/

namespace Sys2Proof.Machine

/-- PRESUMED (log entry 3): the conventional CHIP-8 hexadecimal font, the default FONT_TABLE that
10_state.md R44 gives from general knowledge; glyphs 0 to 7. -/
def fontLow : Vector (Vector Byte 5) 8 :=
  #v[#v[0xF0, 0x90, 0x90, 0x90, 0xF0], #v[0x20, 0x60, 0x20, 0x20, 0x70],
     #v[0xF0, 0x10, 0xF0, 0x80, 0xF0], #v[0xF0, 0x10, 0xF0, 0x10, 0xF0],
     #v[0x90, 0x90, 0xF0, 0x10, 0x10], #v[0xF0, 0x80, 0xF0, 0x10, 0xF0],
     #v[0xF0, 0x80, 0xF0, 0x90, 0xF0], #v[0xF0, 0x10, 0x20, 0x40, 0x40]]

/-- Glyphs 8 to F of the default font (10_state.md R44, log entry 3). -/
def fontHigh : Vector (Vector Byte 5) 8 :=
  #v[#v[0xF0, 0x90, 0xF0, 0x90, 0xF0], #v[0xF0, 0x90, 0xF0, 0x10, 0xF0],
     #v[0xF0, 0x90, 0xF0, 0x90, 0x90], #v[0xE0, 0x90, 0xE0, 0x90, 0xE0],
     #v[0xF0, 0x80, 0x80, 0x80, 0xF0], #v[0xE0, 0x90, 0x90, 0x90, 0xE0],
     #v[0xF0, 0x80, 0xF0, 0x80, 0xF0], #v[0xF0, 0x80, 0xF0, 0x80, 0x80]]

/-- The default build: FONT_BASE = 0x000 and the default FONT_TABLE (00_scope.md R8). -/
def defaultBuild : Build := ⟨0, fontLow ++ fontHigh⟩

/-- The default inputs: HALT_ON_UNKNOWN true, ADVANCE_I false, STEP_MODE false (00_scope.md R7). -/
def defaultInputs : Inputs := ⟨true, false, false⟩

/-- MEM_SIZE (00_scope.md R6). -/
def memSize : Nat := 4096

/-- PROG_BASE, the program start address and the reset value of PC (00_scope.md R6). -/
def progBase : Nat := 0x200

/-- ROM_MAX (00_scope.md R6). -/
def romMax : Nat := 3584

/-- What an address that the memory does not list reads as: the reset contents without a ROM, which
are FONT_TABLE at FONT_BASE .. FONT_BASE + 79, glyph d at offset 5 * d, and 0 elsewhere
(10_state.md R43, R44; 20_memory.md R51). -/
def resetByte (b : Build) (a : Nat) : Byte :=
  if h : b.fontBase.val ≤ a ∧ a < b.fontBase.val + 80 then
    (b.fontTable[(a - b.fontBase.val) / 5]'(by omega))[(a - b.fontBase.val) % 5]'(by omega)
  else 0

end Sys2Proof.Machine
end

