-- ==== Sys2Proof/Machine/State.lean ====
section
/-! DEFINITION. The state of the core (spec/10_state.md R20) as plain data, the reasons a step can
stop, and the state after reset (R43). -/

namespace Sys2Proof.Machine

/-- MEM as (address, byte) pairs in one canonical form, see `Memory.wf`: an address not listed
reads as `resetByte` says. -/
abbrev Memory := List Host.Cell

/-- FB: 32 rows of 64 pixels; FB[y][x] is bit x of row y (10_state.md R20, R31; log entry 17). -/
abbrev FrameBuffer := Vector (BitVec 64) 32

/-- RUN, the state of the execution cycle (10_state.md R35, 45_execution_cycle.md R160). -/
inductive RunState where
  | running
  | halted
  deriving DecidableEq, Repr

/-- The six named error conditions (60_exceptions.md R180). HALT_REASON is one of them or None. -/
inductive Condition where
  /-- Raised by reset: the ROM is longer than 3584 bytes (R181). -/
  | romTooLarge
  /-- Raised by reset: the host presents no ROM (R182). -/
  | romUnreadable
  /-- Raised by 2NNN when SP = 16 (R183). -/
  | stackOverflow
  /-- Raised by 00EE when SP = 0 (R184). -/
  | stackUnderflow
  /-- Raised by the decoder (R185). -/
  | unknownOpcode
  /-- Raised by the fetch when PC >= 4095 (R186). -/
  | fetchOutOfBounds
  deriving DecidableEq, Repr

/-- A report event: a condition and a 16-bit info value (45_execution_cycle.md R167). -/
structure Report where
  condition : Condition
  info : Word
  deriving DecidableEq, Repr

/-- The machine state: the sixteen entries of 10_state.md R20, then the model's own fields for the
inputs and outputs of operations, which the spec does not count as state (R39). -/
structure State where
  /-- MEM, 4096 cells of 8 bits (20_memory.md R50). -/
  mem : Memory
  /-- V0..VF (10_state.md R21). -/
  v : Vector Byte 16
  /-- I, the index register (R23). -/
  i : Word
  /-- PC (R24). -/
  pc : Word
  /-- STACK, 16 return addresses (R26). -/
  stack : Vector Word 16
  /-- SP, the number of valid stack entries, 0..16 (R27). -/
  sp : Fin 17
  /-- DT, the delay timer (R28). -/
  dt : Byte
  /-- ST, the sound timer (R29). -/
  st : Byte
  /-- TONE, the "tone requested" register (R30). -/
  tone : Bool
  /-- FB, the framebuffer (R31). -/
  fb : FrameBuffer
  /-- DIRTY, the "needs redraw" flag (R32). -/
  dirty : Bool
  /-- KEY_CUR: bit k is key k (R33). -/
  keyCur : Word
  /-- KEY_PREV: the previous frame's snapshot (R34). -/
  keyPrev : Word
  /-- RUN (R35). -/
  run : RunState
  /-- HALT_REASON; `none` is the value None (R36). -/
  haltReason : Option Condition
  /-- STEP_REQ, the latched "advance one instruction" request (R37). -/
  stepReq : Bool
  /-- The build-time parameters (00_scope.md R8); the model's own field, log entry 2. -/
  build : Build
  /-- The run-time configuration inputs (00_scope.md R7); the model's own field, log entry 1. -/
  inputs : Inputs
  /-- RAND bytes the host has already supplied, next first; the model's own field, log entry 4. -/
  rand : List Byte
  /-- How many free RAND bytes have been drawn; the model's own field, log entry 4. -/
  randDrawn : Nat
  /-- The report events emitted so far, oldest first; the model's own field, log entry 5. -/
  reports : List Report
  /-- The frames handed to the host so far, oldest first; the model's own field, log entry 5. -/
  frames : List FrameBuffer
  deriving DecidableEq, Repr

/-- There is no fault. Every operation of this core is total on every state
(93_implementation_defined.md, after Part 1): the conditions the spec names move the core to
Halted, which is a next state (60_exceptions.md R189), and no data access can be out of bounds
(20_memory.md R55). Log entry 7. -/
inductive Fault : Type
  deriving DecidableEq, Repr

/-- Why the model gives no meaning. -/
inductive Refusal where
  /-- Raised by an arm of `exec` whose instruction has no meaning yet; no arm is left that raises
  it. Safe: the model stops where the hardware goes on. -/
  | notModelled (mnemonic : String)
  deriving DecidableEq, Repr

/-- What one instruction or one step answers. -/
abbrev Result := Host.Outcome State Fault Refusal

/-- The state after a successful reset with an empty ROM (10_state.md R43): memory lists nothing,
so it reads as the zero fill with the font copied in; registers and timers 0; PC at 0x200; Running.
The values of SP, STACK, TONE, FB, DIRTY, the keys and STEP_REQ are the spec's decision D16 (log
entry 18); the model's own fields hold the defaults of log entries 1 to 5. -/
def State.reset : State where
  mem := []
  v := Vector.replicate 16 0
  i := 0
  pc := BitVec.ofNat 16 progBase
  stack := Vector.replicate 16 0
  sp := 0
  dt := 0
  st := 0
  tone := false
  fb := Vector.replicate 32 0
  dirty := false
  keyCur := 0
  keyPrev := 0
  run := .running
  haltReason := none
  stepReq := false
  build := defaultBuild
  inputs := defaultInputs
  rand := []
  randDrawn := 0
  reports := []
  frames := []

end Sys2Proof.Machine
end

