-- ==== Sys2Proof/Machine/Ops.lean ====
section
/-! DEFINITION. The named operations over memory, registers, the stack, the framebuffer, the random
source and the run state. Each piece of state has one reader and one writer here; the meanings and
the step only call them. -/

namespace Sys2Proof.Machine

/-! ### Memory (spec/20_memory.md) -/

/-- The byte at an address; an address not listed reads as after reset (R52). -/
def Memory.read (b : Build) : Memory → Nat → Byte
  | [], a => resetByte b a
  | c :: m, a => if c.1 = a then c.2 else Memory.read b m a

/-- The memory without any entry for the address. -/
def Memory.erase (m : Memory) (a : Nat) : Memory := m.filter (fun c => c.1 != a)

/-- The memory with an entry for the address put before the first higher one. -/
def Memory.insert (a : Nat) (x : Byte) : Memory → Memory
  | [] => [(a, x)]
  | c :: m => if a < c.1 then (a, x) :: c :: m else c :: Memory.insert a x m

/-- MEM[a] <- x, keeping the canonical form: an entry equal to what an unlisted address reads as is
not listed (R53). -/
def Memory.write (b : Build) (m : Memory) (a : Nat) (x : Byte) : Memory :=
  if x = resetByte b a then Memory.erase m a else Memory.insert a x (Memory.erase m a)

/-- The canonical form: addresses strictly rising, below 4096, and no entry equal to what an
unlisted address reads as (10_state.md R40, MEM has exactly 4096 cells). -/
def Memory.wf (b : Build) : Memory → Bool
  | [] => true
  | c :: m =>
    decide (c.1 < memSize) && decide (c.2 ≠ resetByte b c.1) && m.all (fun d => decide (c.1 < d.1))
      && Memory.wf b m

/-- `xs` written to ascending addresses from `a`. -/
def Memory.writeBytes (b : Build) : List Byte → Nat → Memory → Memory
  | [], _, m => m
  | x :: xs, a, m => Memory.writeBytes b xs (a + 1) (Memory.write b m a x)

/-- MemRead(a, 1) (R52). -/
def State.loadByte (s : State) (a : Addr) : Byte := Memory.read s.build s.mem a.toNat

/-- MemWrite(a, 1, x) (R53). -/
def State.storeByte (s : State) (a : Addr) (x : Byte) : State :=
  { s with mem := Memory.write s.build s.mem a.toNat x }

/-- MemRead(PC, 2): the opcode at PC, the byte at the lower address in bits 15..8 (R52, R57). The
fetch uses it only when PC <= 4094 (R54). -/
def State.opcodeAt (s : State) (pc : Word) : Word :=
  bigEndian (Memory.read s.build s.mem pc.toNat) (Memory.read s.build s.mem (pc.toNat + 1))

/-! ### Registers (spec/10_state.md) -/

/-- `V[r]` (R21). -/
def State.reg (s : State) (r : Reg) : Byte := s.v[r.val]

/-- `V[r] <- x` (R21). -/
def State.setReg (s : State) (r : Reg) (x : Byte) : State := { s with v := s.v.set r.val x }

/-- VF, the flag register (R22). -/
def vf : Reg := 15

/-- `I <- w` (R23). -/
def State.setI (s : State) (w : Word) : State := { s with i := w }

/-- `PC <- w` (R24). -/
def State.setPc (s : State) (w : Word) : State := { s with pc := w }

/-- `PC <- PC + 2`, the fetch's advance and a taken skip (R24, 40_flow.md R108). -/
def State.advance (s : State) : State := s.setPc (s.pc + 2)

/-- A skip: two more bytes when the condition holds (R25). -/
def State.skipIf (s : State) (c : Bool) : State := if c then s.advance else s

/-- `DT <- x` (R28). -/
def State.setDt (s : State) (x : Byte) : State := { s with dt := x }

/-- `ST <- x` (R29); TONE follows only at the next tick (R30). -/
def State.setSt (s : State) (x : Byte) : State := { s with st := x }

/-! ### Call stack (spec/10_state.md R26, R27) -/

/-- Push: `none` when the stack is full (StackOverflow). -/
def State.push (s : State) (w : Word) : Option State :=
  if h : s.sp.val < 16 then
    some { s with stack := s.stack.set s.sp.val w, sp := ⟨s.sp.val + 1, by omega⟩ }
  else none

/-- Pop: `none` when the stack is empty (StackUnderflow). The popped cell keeps its bits. -/
def State.pop (s : State) : Option (Word × State) :=
  if h : 0 < s.sp.val then
    some (s.stack[s.sp.val - 1], { s with sp := ⟨s.sp.val - 1, by omega⟩ })
  else none

/-! ### Framebuffer (spec/10_state.md R31, R32) -/

/-- FB[y][x]; false outside the 64x32 pixels. -/
def FrameBuffer.pixel (fb : FrameBuffer) (x y : Nat) : Bool :=
  if h : y < 32 then fb[y].getLsbD x else false

/-- FB[y][x] <- FB[y][x] xor 1; nothing outside the 64x32 pixels. -/
def FrameBuffer.flip (fb : FrameBuffer) (x y : Nat) : FrameBuffer :=
  if h : y < 32 then fb.set y (fb[y] ^^^ (1#64 <<< x)) else fb

/-- All pixels 0. -/
def FrameBuffer.blank : FrameBuffer := Vector.replicate 32 0

/-- The cell at a flat index, y * 64 + x (R31), as consume_frame outputs it. -/
def FrameBuffer.flat (fb : FrameBuffer) (index : Nat) : Bool := fb.pixel (index % 64) (index / 64)

/-- `FB <- fb`, `DIRTY <- 1`: the only way an instruction changes FB (43_display.md R143). -/
def State.show (s : State) (fb : FrameBuffer) : State := { s with fb := fb, dirty := true }

/-! ### Random source (spec/00_scope.md R10) -/

/-- The RAND input of a step: what the host has supplied, or else a free byte (log entry 4). -/
def State.randByte (s : State) : Byte :=
  match s.rand with
  | x :: _ => x
  | [] => Config.freeRand s.randDrawn

/-- One RAND value is consumed (41_alu.md R121). -/
def State.consumeRand (s : State) : State :=
  match s.rand with
  | _ :: xs => { s with rand := xs }
  | [] => { s with randDrawn := s.randDrawn + 1 }

/-! ### Conditions (spec/60_exceptions.md) -/

/-- `report(C, info)`: one report event, no other effect (45_execution_cycle.md R167). -/
def State.report (s : State) (c : Condition) (info : Word) : State :=
  { s with reports := s.reports ++ [⟨c, info⟩] }

/-- `raise C(info)`: RUN <- Halted, HALT_REASON <- C, report(C, info), and nothing else (R189).
There is no return from it (R190): only reset leaves Halted, see `State.resetWith`. -/
def State.raise (s : State) (c : Condition) (info : Word) : State :=
  { s with run := .halted, haltReason := some c, reports := s.reports ++ [⟨c, info⟩] }

/-- The 3-bit code of HALT_REASON (10_state.md R36, 60_exceptions.md R180). -/
def haltCode : Option Condition → BitVec 3
  | none => 0
  | some .romTooLarge => 1
  | some .romUnreadable => 2
  | some .stackOverflow => 3
  | some .stackUnderflow => 4
  | some .unknownOpcode => 5
  | some .fetchOutOfBounds => 6

/-- `reset(rom)`, the only way out of Halted (70_reset_and_hazards.md R210 to R212): every piece of
state takes its reset value; then the ROM is copied to 0x200 and the core runs, or the load fails
and the core is Halted with nothing copied. The parameters and inputs are what the host presents
(R211); the random source and the record of past outputs are the host's and stay (log entry 5). -/
def State.resetWith (s : State) (rom : Option (List Byte)) : State :=
  let cleared : State :=
    { State.reset with
      build := s.build, inputs := s.inputs, rand := s.rand, randDrawn := s.randDrawn,
      reports := s.reports, frames := s.frames }
  match rom with
  | none => cleared.raise .romUnreadable 0
  | some bytes =>
    if romMax < bytes.length then cleared.raise .romTooLarge 0
    else { cleared with mem := Memory.writeBytes s.build bytes progBase [] }

end Sys2Proof.Machine
end

