-- ==== Sys2Proof/Machine/Cycle.lean ====
section
/-! DEFINITION. The stages of a step around the instruction: the run gate, the single-step gate,
the fetch and the unknown opcode (spec/45_execution_cycle.md R161 to R167). -/

namespace Sys2Proof.Machine

/-- The step executes: RUN is Running and, under STEP_MODE, a request is latched (R162, R163). -/
def State.gateOpen (s : State) : Bool :=
  decide (s.run = .running) && (!s.inputs.stepMode || s.stepReq)

/-- The step that executes under STEP_MODE clears the request; without STEP_MODE the latch is
neither read nor written (R163). -/
def State.takeRequest (s : State) : State :=
  if s.inputs.stepMode then { s with stepReq := false } else s

/-- Both opcode bytes lie in memory: PC <= 4094 (R164). -/
def State.fetchable (s : State) : Bool := decide (s.pc.toNat < 4095)

/-- The state the instruction executes on: the request taken and PC advanced by 2 (R163, R164). -/
def State.fetched (s : State) : State := s.takeRequest.advance

/-- The failed fetch: FetchOutOfBounds with PC as its info and PC unchanged (R164). -/
def State.fetchFails (s : State) : State := s.takeRequest.raise .fetchOutOfBounds s.pc

/-- An unknown opcode, after the fetch: it halts when HALT_ON_UNKNOWN is true and is only reported
when it is false (R166). -/
def State.unknown (s : State) (op : Word) : State :=
  if s.inputs.haltOnUnknown then s.raise .unknownOpcode op else s.report .unknownOpcode op

/-- What the stages before dispatch answer: the step is over with this state, or this instruction
is to be executed on this state. -/
inductive Front where
  | done (s : State)
  | run (i : Instr) (s : State)
  deriving DecidableEq, Repr

/-- The stages before dispatch, in R161's order. -/
def State.front (s : State) : Front :=
  if s.gateOpen then
    if s.fetchable then
      match decode (s.opcodeAt s.pc) with
      | .ok i => .run i s.fetched
      | .error _ => .done (s.fetched.unknown (s.opcodeAt s.pc))
    else .done s.fetchFails
  else .done s

/-- An opcode stored where the fetch reads it, big-endian at PC and PC + 1 (20_memory.md R57); the
core is made to run it: RUN Running, a request latched when STEP_MODE asks for one, PC at 0x200 if
nothing can be fetched where it stands (log entry 6). -/
def State.placeOpcode (s : State) (op : Word) : State :=
  let pc := if s.fetchable then s.pc else BitVec.ofNat 16 progBase
  { s with
    pc := pc, run := .running, haltReason := none, stepReq := s.inputs.stepMode || s.stepReq,
    mem := Memory.writeBytes s.build [highByte op, lowByte op] pc.toNat s.mem }

end Sys2Proof.Machine
end

