-- ==== Sys2Proof/Machine/Flags.lean ====
section
/-! DEFINITION. Every flag computation: what VF holds after a flag-writing instruction
(spec/10_state.md R22), and the order of the result and the flag (spec/41_alu.md R122). -/

namespace Sys2Proof.Machine

/-- A flag as VF holds it: 1 or 0. -/
def flagByte (f : Bool) : Byte := if f then 1 else 0

/-- 8XY4: the unsigned sum is above 255 (R116). -/
def carry (a b : Byte) : Bool := decide (255 < a.toNat + b.toNat)

/-- 8XY5 and 8XY7: no borrow in `a - b`, that is `a >= b` (R117, R119). -/
def notBorrow (a b : Byte) : Bool := decide (b.toNat ≤ a.toNat)

/-- 8XY6: the bit shifted out on the right (R118). -/
def shiftedOutRight (b : Byte) : Bool := b.getLsbD 0

/-- 8XYE: the bit shifted out on the left (R120). -/
def shiftedOutLeft (b : Byte) : Bool := b.getLsbD 7

/-- The result to V[X] first and the flag to VF second, so that with X = 0xF VF ends holding the
flag (R122). -/
def State.setResult (s : State) (x : Reg) (r : Byte) (f : Bool) : State :=
  (s.setReg x r).setReg vf (flagByte f)

end Sys2Proof.Machine
end

