-- ==== Sys2Proof/Machine/Alu.lean ====
section
/-! DEFINITION. The meanings of the load, arithmetic, logic, shift and random instructions
(spec/41_alu.md R110 to R122). -/

namespace Sys2Proof.Machine

/-- 6XNN LD VX, NN (R110). -/
def execLdImm (x : Reg) (nn : Byte) (s : State) : Result := .next (s.setReg x nn)

/-- 7XNN ADD VX, NN: wraps, no flag (R111). -/
def execAddImm (x : Reg) (nn : Byte) (s : State) : Result := .next (s.setReg x (s.reg x + nn))

/-- 8XY0 LD VX, VY (R112). -/
def execLdReg (x y : Reg) (s : State) : Result := .next (s.setReg x (s.reg y))

/-- 8XY1 OR VX, VY: VF <- 0 (R113). -/
def execOr (x y : Reg) (s : State) : Result :=
  .next (s.setResult x (s.reg x ||| s.reg y) false)

/-- 8XY2 AND VX, VY: VF <- 0 (R114). -/
def execAnd (x y : Reg) (s : State) : Result :=
  .next (s.setResult x (s.reg x &&& s.reg y) false)

/-- 8XY3 XOR VX, VY: VF <- 0 (R115). -/
def execXor (x y : Reg) (s : State) : Result :=
  .next (s.setResult x (s.reg x ^^^ s.reg y) false)

/-- 8XY4 ADD VX, VY (R116). -/
def execAdd (x y : Reg) (s : State) : Result :=
  .next (s.setResult x (s.reg x + s.reg y) (carry (s.reg x) (s.reg y)))

/-- 8XY5 SUB VX, VY (R117). -/
def execSub (x y : Reg) (s : State) : Result :=
  .next (s.setResult x (s.reg x - s.reg y) (notBorrow (s.reg x) (s.reg y)))

/-- 8XY6 SHR VX, VY: shifts VY, not VX (R118). -/
def execShr (x y : Reg) (s : State) : Result :=
  .next (s.setResult x (s.reg y >>> 1) (shiftedOutRight (s.reg y)))

/-- 8XY7 SUBN VX, VY (R119). -/
def execSubn (x y : Reg) (s : State) : Result :=
  .next (s.setResult x (s.reg y - s.reg x) (notBorrow (s.reg y) (s.reg x)))

/-- 8XYE SHL VX, VY: shifts VY, not VX (R120). -/
def execShl (x y : Reg) (s : State) : Result :=
  .next (s.setResult x (s.reg y <<< 1) (shiftedOutLeft (s.reg y)))

/-- CXNN RND VX, NN: consumes one RAND value (R121). -/
def execRnd (x : Reg) (nn : Byte) (s : State) : Result :=
  .next (s.consumeRand.setReg x (s.randByte &&& nn))

end Sys2Proof.Machine
end

