-- ==== Sys2Proof/Machine/Operands.lean ====
section
/-! DEFINITION. The operand forms: the data effective address, immediates widened to 16 bits, the
key index, the glyph address, the decimal digits, and the block moves between V0..VX and memory. -/

namespace Sys2Proof.Machine

/-- `ea(k) = (I + k) mod 4096` from the full 16-bit I (spec/20_memory.md R55). -/
def State.ea (s : State) (k : Nat) : Addr := BitVec.ofNat 12 (s.i.toNat + k)

/-- `zext_16(NNN)` (30_encoding.md R73). -/
def zextAddr (nnn : Addr) : Word := nnn.setWidth 16

/-- `zext_16` of a byte (00_scope.md R11). -/
def zextByte (x : Byte) : Word := x.setWidth 16

/-- The key index of EX9E and EXA1: the low 4 bits of VX (44_keys_timers.md R150, R151). -/
def keyIndex (x : Byte) : Nat := x.toNat % 16

/-- `KEY_CUR[k]` (10_state.md R33). -/
def State.keyHeld (s : State) (k : Nat) : Bool := s.keyCur.getLsbD k

/-- A key-up edge: held in the previous snapshot and not in the current one
(00_scope.md R15, 44_keys_timers.md R153). -/
def State.keyUpEdge (s : State) (k : Nat) : Bool := s.keyPrev.getLsbD k && !s.keyCur.getLsbD k

/-- The lowest key with a key-up edge (44_keys_timers.md R153). -/
def State.releasedKey (s : State) : Option Nat := (List.range 16).find? s.keyUpEdge

/-- `FONT_BASE + 5 * (VX and 0x0F)` (42_index_memory.md R132). -/
def glyphAddress (b : Build) (x : Byte) : Word := BitVec.ofNat 16 (b.fontBase.val + 5 * (x.toNat % 16))

/-- The hundreds digit (42_index_memory.md R133). -/
def hundreds (x : Byte) : Byte := BitVec.ofNat 8 (x.toNat / 100)

/-- The tens digit. -/
def tens (x : Byte) : Byte := BitVec.ofNat 8 (x.toNat / 10 % 10)

/-- The units digit. -/
def units (x : Byte) : Byte := BitVec.ofNat 8 (x.toNat % 10)

/-- The register with the number `k`, as FX55 and FX65 step through V0..VX (10_state.md R21). -/
def regNum (k : Nat) : Reg := ⟨k % 16, Nat.mod_lt _ (by decide)⟩

/-- V0, V1, ... stored to ea(0), ea(1), ... in ascending order, `n` registers in all
(42_index_memory.md R134). -/
def State.dumpRegs (s : State) : Nat → State
  | 0 => s
  | n + 1 => (s.dumpRegs n).storeByte (s.ea n) (s.reg (regNum n))

/-- V0, V1, ... loaded from ea(0), ea(1), ... in ascending order, `n` registers in all
(42_index_memory.md R135). -/
def State.loadRegs (s : State) : Nat → State
  | 0 => s
  | n + 1 => (s.loadRegs n).setReg (regNum n) (s.loadByte (s.ea n))

/-- `I <- (I + n) mod 65536` when ADVANCE_I is true (42_index_memory.md R134, R135). -/
def State.advanceIndex (s : State) (n : Nat) : State :=
  if s.inputs.advanceI then s.setI (s.i + BitVec.ofNat 16 n) else s

end Sys2Proof.Machine
end

