-- ==== Sys2Proof/Machine/Display.lean ====
section
/-! DEFINITION. The meanings of the display instructions (spec/43_display.md R140, R141). -/

namespace Sys2Proof.Machine

/-- A draw in progress: the framebuffer and whether a collision has occurred (R141, FB and hit). -/
structure Canvas where
  fb : FrameBuffer
  hit : Bool
  deriving DecidableEq, Repr

/-- One sprite pixel of value 1 XORed onto the pixel at (x, y) (R141). -/
def Canvas.plot (c : Canvas) (x y : Nat) : Canvas := ⟨c.fb.flip x y, c.hit || c.fb.pixel x y⟩

/-- The first `n` columns of a sprite row: column c lands at x0 + c, is dropped when that is above
63, and is bit 7 - c of the byte (R141). -/
def Canvas.drawCols (c : Canvas) (b : Byte) (x0 y : Nat) : Nat → Canvas
  | 0 => c
  | n + 1 =>
    if x0 + n ≤ 63 ∧ b.getLsbD (7 - n) = true then (c.drawCols b x0 y n).plot (x0 + n) y
    else c.drawCols b x0 y n

/-- The first `n` rows of a sprite: row r lands at y0 + r and is dropped when that is above 31
(R141). -/
def Canvas.drawRows (c : Canvas) (row : Nat → Byte) (x0 y0 : Nat) : Nat → Canvas
  | 0 => c
  | n + 1 =>
    if y0 + n ≤ 31 then (c.drawRows row x0 y0 n).drawCols (row n) x0 (y0 + n) 8
    else c.drawRows row x0 y0 n

/-- The sprite of DXYN drawn at (VX mod 64, VY mod 32); its row r is the byte at ea(r) (R141). -/
def State.drawSprite (s : State) (x y : Reg) (n : Count) : Canvas :=
  Canvas.drawRows ⟨s.fb, false⟩ (fun r => s.loadByte (s.ea r)) ((s.reg x).toNat % 64)
    ((s.reg y).toNat % 32) n.val

/-- 00E0 CLS (R140). -/
def execCls (s : State) : Result := .next (s.show FrameBuffer.blank)

/-- DXYN DRW VX, VY, N (R141). -/
def execDrw (x y : Reg) (n : Count) (s : State) : Result :=
  .next ((s.show (s.drawSprite x y n).fb).setReg vf (flagByte (s.drawSprite x y n).hit))

end Sys2Proof.Machine
end

