-- ==== Sys2Proof/Machine/Flow.lean ====
section
/-! DEFINITION. The meanings of the control-flow instructions (spec/40_flow.md R100 to R108). Each
starts with PC already advanced to addr + 2. -/

namespace Sys2Proof.Machine

/-- 00EE RET (R100). -/
def execRet (s : State) : Result :=
  match s.pop with
  | some (w, t) => .next (t.setPc w)
  | none => .next (s.raise .stackUnderflow (encode .ret))

/-- 1NNN JP NNN (R101). -/
def execJp (nnn : Addr) (s : State) : Result := .next (s.setPc (zextAddr nnn))

/-- 2NNN CALL NNN (R102). -/
def execCall (nnn : Addr) (s : State) : Result :=
  match s.push s.pc with
  | some t => .next (t.setPc (zextAddr nnn))
  | none => .next (s.raise .stackOverflow (encode (.call nnn)))

/-- 3XNN SE VX, NN (R103). -/
def execSeImm (x : Reg) (nn : Byte) (s : State) : Result := .next (s.skipIf (s.reg x == nn))

/-- 4XNN SNE VX, NN (R104). -/
def execSneImm (x : Reg) (nn : Byte) (s : State) : Result := .next (s.skipIf (s.reg x != nn))

/-- 5XY0 SE VX, VY (R105). -/
def execSeReg (x y : Reg) (s : State) : Result := .next (s.skipIf (s.reg x == s.reg y))

/-- 9XY0 SNE VX, VY (R106). -/
def execSneReg (x y : Reg) (s : State) : Result := .next (s.skipIf (s.reg x != s.reg y))

/-- BNNN JP V0, NNN: a 16-bit sum, not masked to 12 bits (R107). -/
def execJpV0 (nnn : Addr) (s : State) : Result :=
  .next (s.setPc (zextAddr nnn + zextByte (s.reg 0)))

end Sys2Proof.Machine
end

