-- ==== Sys2Proof/Machine/IndexMemory.lean ====
section
/-! DEFINITION. The meanings of the index-register and memory instructions
(spec/42_index_memory.md R130 to R136). -/

namespace Sys2Proof.Machine

/-- ANNN LD I, NNN (R130). -/
def execLdI (nnn : Addr) (s : State) : Result := .next (s.setI (zextAddr nnn))

/-- FX1E ADD I, VX: wraps at 16 bits, no flag (R131). -/
def execAddI (x : Reg) (s : State) : Result := .next (s.setI (s.i + zextByte (s.reg x)))

/-- FX29 LD F, VX (R132). -/
def execLdF (x : Reg) (s : State) : Result := .next (s.setI (glyphAddress s.build (s.reg x)))

/-- FX33 LD B, VX (R133). -/
def execLdB (x : Reg) (s : State) : Result :=
  .next (((s.storeByte (s.ea 0) (hundreds (s.reg x))).storeByte (s.ea 1) (tens (s.reg x))).storeByte
    (s.ea 2) (units (s.reg x)))

/-- FX55 LD [I], VX (R134). -/
def execLdMemVx (x : Reg) (s : State) : Result :=
  .next ((s.dumpRegs (x.val + 1)).advanceIndex (x.val + 1))

/-- FX65 LD VX, [I] (R135). -/
def execLdVxMem (x : Reg) (s : State) : Result :=
  .next ((s.loadRegs (x.val + 1)).advanceIndex (x.val + 1))

end Sys2Proof.Machine
end

