-- ==== Sys2Proof/Machine/KeysTimers.lean ====
section
/-! DEFINITION. The meanings of the keyboard and timer instructions
(spec/44_keys_timers.md R150 to R156). -/

namespace Sys2Proof.Machine

/-- EX9E SKP VX (R150). -/
def execSkp (x : Reg) (s : State) : Result := .next (s.skipIf (s.keyHeld (keyIndex (s.reg x))))

/-- EXA1 SKNP VX (R151). -/
def execSknp (x : Reg) (s : State) : Result := .next (s.skipIf (!s.keyHeld (keyIndex (s.reg x))))

/-- FX07 LD VX, DT (R152). -/
def execLdVxDt (x : Reg) (s : State) : Result := .next (s.setReg x s.dt)

/-- FX0A LD VX, K: stores the lowest key with a key-up edge, or rewinds PC to the instruction
itself (R153). -/
def execLdVxK (x : Reg) (s : State) : Result :=
  match s.releasedKey with
  | some k => .next (s.setReg x (BitVec.ofNat 8 k))
  | none => .next (s.setPc (s.pc - 2))

/-- FX15 LD DT, VX (R154). -/
def execLdDtVx (x : Reg) (s : State) : Result := .next (s.setDt (s.reg x))

/-- FX18 LD ST, VX: TONE is not written (R155). -/
def execLdStVx (x : Reg) (s : State) : Result := .next (s.setSt (s.reg x))

end Sys2Proof.Machine
end

