-- ==== Sys2Proof/Machine/Step.lean ====
section
/-! DEFINITION. The step operation (spec/45_execution_cycle.md R161): at most one instruction. -/

namespace Sys2Proof.Machine

/-- `step` (R161): the stages before dispatch, then the instruction's meaning. -/
def step (s : State) : Host.Outcome State Fault Refusal :=
  match s.front with
  | .done t => .next t
  | .run i t => exec i t

/-- The state with an instruction, given as the opcode table numbers its bits, stored where `step`
fetches next. Every instruction is one 16-bit word (30_encoding.md R70). -/
def State.withFetchWord (s : State) (nbits w : Nat) : State := s.placeOpcode (tableWord nbits w)

end Sys2Proof.Machine
end

