-- ==== Sys2Proof/Machine/HostOps.lean ====
section
/-! DEFINITION. The six operations the host invokes (spec/00_scope.md R13, spec/60_exceptions.md
R204), and the frame schedule (spec/45_execution_cycle.md R170). `reset` is `State.resetWith` and
`step` is `step`; the other four are here. None but step is gated by RUN (60_exceptions.md R198). -/

namespace Sys2Proof.Machine

/-- One timer's count: down by 1, floor 0 (60_exceptions.md R193). -/
def countDown (x : Byte) : Byte := BitVec.ofNat 8 (x.toNat - 1)

/-- `tick_timers()`: TONE follows the ST just written (R193). -/
def State.tickTimers (s : State) : State :=
  { s with dt := countDown s.dt, st := countDown s.st, tone := countDown s.st != 0 }

/-- `update_keys(new)` (R195). -/
def State.updateKeys (s : State) (new : Word) : State :=
  { s with keyPrev := s.keyCur, keyCur := new }

/-- `consume_frame()`: outputs FB and clears DIRTY when it is set (R196). -/
def State.consumeFrame (s : State) : State :=
  if s.dirty then { s with frames := s.frames ++ [s.fb], dirty := false } else s

/-- `request_advance()` (R197). -/
def State.requestAdvance (s : State) : State := { s with stepReq := true }

/-- What the host presents from now on as configuration inputs: allowed between operations, and no
operation of the core (00_scope.md R7, 93_implementation_defined.md row 31). -/
def State.present (s : State) (inputs : Inputs) : State := { s with inputs := inputs }

/-- The host supplies RAND bytes for the next executions of CXNN (00_scope.md R10). -/
def State.supplyRand (s : State) (xs : List Byte) : State := { s with rand := s.rand ++ xs }

/-- The operations of 00_scope.md R13 with their inputs. -/
inductive HostOp where
  | reset (rom : Option (List Byte))
  | updateKeys (new : Word)
  | tickTimers
  | step
  | consumeFrame
  | requestAdvance
  deriving DecidableEq, Repr

/-- One operation (20_memory.md R61: atomic, none overlaps another). -/
def HostOp.apply (o : HostOp) (s : State) : Result :=
  match o with
  | .reset rom => .next (s.resetWith rom)
  | .updateKeys new => .next (s.updateKeys new)
  | .tickTimers => .next s.tickTimers
  | .step => Sys2Proof.Machine.step s
  | .consumeFrame => .next s.consumeFrame
  | .requestAdvance => .next s.requestAdvance

/-- A sequence of operations, in the order the host invokes them. -/
def applyAll : List HostOp → State → Result
  | [], s => .next s
  | o :: os, s =>
    match o.apply s with
    | .next t => applyAll os t
    | .fault r => .fault r
    | .refused r => .refused r

/-- IPF, instructions per frame: a positive number of the host's, by default 11; no rule of the core
reads it (00_scope.md R9). -/
def defaultIpf : Nat := 11

/-- One display frame: inputs, timers, `ipf` steps, render (45_execution_cycle.md R170). -/
def frameOps (keys : Word) (ipf : Nat) : List HostOp :=
  .updateKeys keys :: .tickTimers :: (List.replicate ipf .step ++ [.consumeFrame])

end Sys2Proof.Machine
end

