-- ==== Sys2Proof/Safety.lean ====
section
/-! DEFINITION. What claims are stated in: what an instruction leaves unchanged, and the invariant of
the machine (spec/10_state.md R40). -/

namespace Sys2Proof.Machine

/-- What an instruction may change: these V registers, memory bytes and stack cells, and the pieces
of state whose flag is true. `fb` stands for FB and DIRTY, `rand` for the random source, `halt` for
RUN, HALT_REASON and the reports. -/
structure Touched where
  regs : List Reg := []
  bytes : List Addr := []
  cells : List (Fin 16) := []
  sp : Bool := false
  i : Bool := false
  pc : Bool := false
  dt : Bool := false
  st : Bool := false
  fb : Bool := false
  rand : Bool := false
  halt : Bool := false

/-- Everything that `c` does not name is the same in `t` as in `s`: every V register, every byte of
memory, every stack cell, and every other piece of state. TONE, the key snapshots, STEP_REQ, the
frames handed over, the inputs and the parameters are never named: no instruction writes them
(spec/10_state.md R38, R45). -/
def Untouched (c : Touched) (s t : State) : Prop :=
  (∀ r : Reg, r ∉ c.regs → t.reg r = s.reg r) ∧
  (∀ a : Addr, a ∉ c.bytes → t.loadByte a = s.loadByte a) ∧
  (∀ k : Fin 16, k ∉ c.cells → t.stack[k.val] = s.stack[k.val]) ∧
  (c.sp = false → t.sp = s.sp) ∧
  (c.i = false → t.i = s.i) ∧
  (c.pc = false → t.pc = s.pc) ∧
  (c.dt = false → t.dt = s.dt) ∧
  (c.st = false → t.st = s.st) ∧
  (c.fb = false → t.fb = s.fb ∧ t.dirty = s.dirty) ∧
  (c.rand = false → t.rand = s.rand ∧ t.randDrawn = s.randDrawn) ∧
  (c.halt = false → t.run = s.run ∧ t.haltReason = s.haltReason ∧ t.reports = s.reports) ∧
  t.tone = s.tone ∧ t.keyCur = s.keyCur ∧ t.keyPrev = s.keyPrev ∧ t.stepReq = s.stepReq ∧
  t.frames = s.frames ∧ t.inputs = s.inputs ∧ t.build = s.build

/-- `raise C(info)` took place and nothing else changed but what `c` names: RUN Halted,
HALT_REASON the condition, one report (spec/60_exceptions.md R189). -/
def Raised (cond : Condition) (info : Word) (s t : State) : Prop :=
  t.run = .halted ∧ t.haltReason = some cond ∧ t.reports = s.reports ++ [⟨cond, info⟩] ∧
  Untouched { halt := true } s t

/-- The invariant of 10_state.md R40: memory is in its canonical form (4096 cells, each with one
value), PC is at most 0x10FE, every valid stack entry is at most 4096, and RUN is Halted exactly
when HALT_REASON is not None. That SP is at most 16 and that every register and pixel has its
width is in the types. -/
def StateInv (s : State) : Prop :=
  Memory.wf s.build s.mem = true ∧
  s.pc.toNat ≤ 0x10FE ∧
  (∀ k : Fin 16, k.val < s.sp.val → s.stack[k.val].toNat ≤ 4096) ∧
  (s.run = .halted ↔ s.haltReason ≠ none)

/-- The V registers an instruction may write (10_state.md R45, rows V[X] and VF): its X, VF for the
flag writers and DRW, V0..VX for FX65. -/
def regsWritten : Instr → List Reg
  | .cls | .ret | .jp _ | .call _ | .seImm _ _ | .sneImm _ _ | .seReg _ _ | .sneReg _ _ => []
  | .ldI _ | .jpV0 _ | .skp _ | .sknp _ | .ldDtVx _ | .ldStVx _ | .addI _ | .ldF _ | .ldB _ => []
  | .ldMemVx _ => []
  | .ldImm x _ | .addImm x _ | .ldReg x _ | .rnd x _ | .ldVxDt x | .ldVxK x => [x]
  | .orReg x _ | .andReg x _ | .xorReg x _ | .addReg x _ | .subReg x _ => [x, vf]
  | .shrReg x _ | .subnReg x _ | .shlReg x _ => [x, vf]
  | .drw _ _ _ => [vf]
  | .ldVxMem x => (List.finRange 16).filter (fun r => decide (r ≤ x))

/-- The sprite of DXYN sets the screen pixel at column `px`, row `py`: some row r below N and some
column c below 8 land there, and bit 7 - c of the byte at ea(r) is 1 (43_display.md R141). -/
def SpriteSets (s : State) (x y : Reg) (n : Count) (px py : Nat) : Prop :=
  ∃ r c : Nat, r < n.val ∧ c < 8 ∧ px = (s.reg x).toNat % 64 + c ∧ py = (s.reg y).toNat % 32 + r ∧
    (s.loadByte (s.ea r)).getLsbD (7 - c) = true

/-- Instructions executed one after another, without the fetch between them. -/
def execAll : List Instr → State → Result
  | [], s => .next s
  | i :: is, s =>
    match exec i s with
    | .next t => execAll is t
    | .fault r => .fault r
    | .refused r => .refused r

/-- The step gets past the run gate and the single-step gate (45_execution_cycle.md R161). -/
def Enabled (s : State) : Prop :=
  s.run = .running ∧ (s.inputs.stepMode = true → s.stepReq = true)

/-- The state after the gates: under STEP_MODE the request is taken (45_execution_cycle.md R163). -/
def afterGate (s : State) : State :=
  { s with stepReq := if s.inputs.stepMode = true then false else s.stepReq }

/-- The opcode at PC, `MEM[PC] || MEM[PC + 1]`, byte by byte (20_memory.md R57). -/
def opcodeAtPc (s : State) : Word :=
  bigEndian (s.loadByte (BitVec.ofNat 12 s.pc.toNat)) (s.loadByte (BitVec.ofNat 12 (s.pc.toNat + 1)))

end Sys2Proof.Machine
end

