-- ==== Sys2Proof/Certificates/Slice0/Obligations.lean ====
section
/-! DEFINITION. The statements for the provers. A frame is said through `Untouched`: every V
register, every byte of memory, every stack cell and every other piece of state that the record does
not name is unchanged. PC is already advanced to addr + 2 when an instruction executes
(spec/45_execution_cycle.md R165), so "PC is addr + 2 afterwards" reads "PC is unchanged". -/

open Sys2Proof Sys2Proof.Machine

/-! ### Encoding (spec/30_encoding.md) -/

/-- 30_encoding.md R82, the worked encodings. -/
def Obligations.WorkedEncodingsDecodeAsWritten : Prop :=
  decode 0x6A2F = .ok (.ldImm 0xA 0x2F) ∧ decode 0x8AB4 = .ok (.addReg 0xA 0xB) ∧
  decode 0xD125 = .ok (.drw 0x1 0x2 0x5) ∧ decode 0xF31E = .ok (.addI 0x3) ∧
  decode 0x2ABC = .ok (.call 0xABC) ∧ decode 0x5120 = .ok (.seReg 0x1 0x2) ∧
  decode 0x5121 = .error (.unknownOpcode 0x5121) ∧ decode 0x00E0 = .ok .cls ∧
  decode 0x01E0 = .error (.unknownOpcode 0x01E0) ∧ encodeBytes (.ldImm 0xA 0x2F) = [0x6A, 0x2F]

/-- R70 to R75: every instruction, with every value of every operand, comes back from its opcode and
from its two bytes, whatever follows them. -/
def Obligations.DecodeOfEncodeIsTheInstruction : Prop :=
  ∀ (i : Instr) (rest : List Byte),
    decode (encode i) = .ok i ∧ decodeBytes (encodeBytes i ++ rest) = .ok (i, rest)

/-- R78: no bit of a defined opcode is ignored. -/
def Obligations.EncodeOfDecodeIsTheOpcode : Prop :=
  ∀ (op : Word) (i : Instr), decode op = .ok i → encode i = op

/-- R76, the table of unknown opcodes by group. -/
def Obligations.UnknownOpcodesByGroup : Prop :=
  ∀ op : Word, decode op = .error (.unknownOpcode op) ↔
    (fieldOp op = 0x0 ∧ op ≠ 0x00E0 ∧ op ≠ 0x00EE) ∨
    (fieldOp op = 0x5 ∧ fieldN op ≠ 0) ∨
    (fieldOp op = 0x8 ∧ (8 ≤ (fieldN op).val ∧ (fieldN op).val ≤ 0xD ∨ (fieldN op).val = 0xF)) ∨
    (fieldOp op = 0x9 ∧ fieldN op ≠ 0) ∨
    (fieldOp op = 0xE ∧ fieldNN op ∉ [0x9E, 0xA1]) ∨
    (fieldOp op = 0xF ∧ fieldNN op ∉ [0x07, 0x0A, 0x15, 0x18, 0x1E, 0x29, 0x33, 0x55, 0x65])

/-- R74, R76: an opcode that decodes selects the row of its instruction and no other row of the map;
the decode procedure rejects exactly the opcodes that select no row, each by its own name. -/
def Obligations.DecodeFollowsTheOpcodeMap : Prop :=
  (∀ (op : Word) (i : Instr), decode op = .ok i →
    i.row ∈ opcodeMap ∧ i.row.selects op = true ∧
    ∀ r ∈ opcodeMap, r.selects op = true → r = i.row) ∧
  (∀ op : Word, decode op = .error (.unknownOpcode op) ↔ ∀ r ∈ opcodeMap, r.selects op = false)

/-! ### The execution cycle (spec/45_execution_cycle.md) -/

/-- R161, R164, R165: a step past its gates, with both opcode bytes in memory, runs the decoded
instruction on the state with the request taken and PC advanced by 2. The fetch bound and the
clearing of the request are the spec's decisions D2 and D20 (log entries 8 and 20). -/
def Obligations.StepRunsTheDecodedInstruction : Prop :=
  ∀ (s : State) (i : Instr), Enabled s → s.pc.toNat ≤ 4094 → decode (opcodeAtPc s) = .ok i →
    step s = exec i { afterGate s with pc := s.pc + 2 }

/-- R162: a step in Halted changes nothing and reports nothing. -/
def Obligations.StepInHaltedChangesNothing : Prop :=
  ∀ s : State, s.run = .halted → step s = .next s

/-- R163: with STEP_MODE and no request the step does nothing; a step that executes under STEP_MODE
clears the request, whatever it ends in; without STEP_MODE the request is not written. The clearing
is the spec's decision D20 (log entry 20). -/
def Obligations.SingleStepGate : Prop :=
  (∀ s : State, s.inputs.stepMode = true → s.stepReq = false → step s = .next s) ∧
  (∀ s t : State, s.run = .running → s.inputs.stepMode = true → s.stepReq = true →
    step s = .next t → t.stepReq = false) ∧
  (∀ s t : State, s.inputs.stepMode = false → step s = .next t → t.stepReq = s.stepReq)

/-- R164, R191: the fetch fails exactly from PC = 4095 on, with PC as info and PC unchanged. The
bound is the spec's decision D2, the state left D7, the info D19 (log entries 8, 9 and 21). -/
def Obligations.FetchOutOfBoundsHalts : Prop :=
  ∀ s : State, Enabled s → 4095 ≤ s.pc.toNat →
    ∃ t, step s = .next t ∧ Raised .fetchOutOfBounds s.pc (afterGate s) t

/-- R166: an unknown opcode halts when HALT_ON_UNKNOWN is true and is only reported when it is
false; PC stays addr + 2 in both. That the advance stands is the spec's decision D26 (log entry
26). -/
def Obligations.UnknownOpcodeHaltsOrIsReported : Prop :=
  ∀ s : State, Enabled s → s.pc.toNat ≤ 4094 →
    decode (opcodeAtPc s) = .error (.unknownOpcode (opcodeAtPc s)) →
    (s.inputs.haltOnUnknown = true → ∃ t, step s = .next t ∧
      Raised .unknownOpcode (opcodeAtPc s) { afterGate s with pc := s.pc + 2 } t) ∧
    (s.inputs.haltOnUnknown = false → step s = .next { afterGate s with
      pc := s.pc + 2, reports := s.reports ++ [⟨.unknownOpcode, opcodeAtPc s⟩] })

/-- R167: a step emits at most one report; it names one of the four run-time conditions and carries
PC for FetchOutOfBounds and the opcode for the others. The info of FetchOutOfBounds is the spec's
decision D19 (log entry 21). -/
def Obligations.StepEmitsAtMostOneReport : Prop :=
  ∀ s t : State, step s = .next t →
    t.reports = s.reports ∨
    ∃ c info, t.reports = s.reports ++ [⟨c, info⟩] ∧
      (c = .fetchOutOfBounds ∧ info = s.pc ∨
       (c = .unknownOpcode ∨ c = .stackOverflow ∨ c = .stackUnderflow) ∧ info = opcodeAtPc s)

/-- R189, R191: a step that halts sets HALT_REASON, reports that condition, and changes nothing else
but PC (addr + 2, or unchanged for a failed fetch) and the request it took. The state left is the
spec's decision D7 (log entry 9). -/
def Obligations.HaltingIsPrecise : Prop :=
  ∀ s t : State, s.run = .running → step s = .next t → t.run = .halted →
    ∃ c info, Raised c info
      { afterGate s with pc := if c = .fetchOutOfBounds then s.pc else s.pc + 2 } t

/-- 93_implementation_defined.md, after Part 1: every operation is total; here on every state,
reachable or not, and for every sequence of operations. -/
def Obligations.EveryOperationCompletes : Prop :=
  (∀ s : State, ∃ t, step s = .next t) ∧
  (∀ (os : List HostOp) (s : State), ∃ t, applyAll os s = .next t)

/-- R160, R190, R198: from Halted, no sequence of operations without reset leaves Halted, changes
HALT_REASON, reports anything or touches V, I, PC, MEM, STACK, SP, FB or STEP_REQ but for
request_advance. That the other operations still act in Halted is the spec's decision D15 (log
entry 16). -/
def Obligations.HaltedIsTerminal : Prop :=
  ∀ (os : List HostOp) (s t : State), s.run = .halted → (∀ rom, HostOp.reset rom ∉ os) →
    applyAll os s = .next t →
    t.run = .halted ∧ t.haltReason = s.haltReason ∧ t.reports = s.reports ∧ t.v = s.v ∧ t.i = s.i ∧
    t.pc = s.pc ∧ t.mem = s.mem ∧ t.stack = s.stack ∧ t.sp = s.sp ∧ t.fb = s.fb ∧
    (HostOp.requestAdvance ∉ os → t.stepReq = s.stepReq)

/-! ### The invariant (spec/10_state.md R40) -/

/-- R40, at reset. -/
def Obligations.ResetMeetsTheInvariant : Prop := StateInv State.reset

/-- R40: every step keeps the invariant, from every state that meets it. -/
def Obligations.StepKeepsTheInvariant : Prop :=
  ∀ s t : State, StateInv s → step s = .next t → StateInv t

/-- R40: so does every sequence of the six operations; and reset establishes it from any state. -/
def Obligations.OperationsKeepTheInvariant : Prop :=
  (∀ (os : List HostOp) (s t : State), StateInv s → applyAll os s = .next t → StateInv t) ∧
  (∀ (rom : Option (List Byte)) (s : State), StateInv (s.resetWith rom))

/-! ### What instructions may write and read (spec/10_state.md R38, R45, R46) -/

/-- R22, R45: an instruction changes no V register but those its row names: X, VF for the flag
writers and DRW, V0..VX for FX65. -/
def Obligations.InstructionsWriteOnlyTheirRegisters : Prop :=
  ∀ (i : Instr) (s t : State) (r : Reg), exec i s = .next t → t.reg r ≠ s.reg r → r ∈ regsWritten i

/-- 43_display.md R143: only CLS and DRW change FB or DIRTY, and each sets DIRTY. -/
def Obligations.OnlyDisplayInstructionsChangeTheScreen : Prop :=
  (∀ (i : Instr) (s t : State), exec i s = .next t → t.fb ≠ s.fb ∨ t.dirty ≠ s.dirty →
    i = .cls ∨ ∃ x y n, i = .drw x y n) ∧
  (∀ (i : Instr) (s t : State), (i = .cls ∨ ∃ x y n, i = .drw x y n) → exec i s = .next t →
    t.dirty = true)

/-- 20_memory.md R53, R56: only FX33 and FX55 write memory, and only inside the bytes they name. -/
def Obligations.OnlyStoresChangeMemory : Prop :=
  ∀ (i : Instr) (s t : State) (a : Addr), exec i s = .next t → t.loadByte a ≠ s.loadByte a →
    (∃ x, i = .ldB x ∧ ∃ k < 3, a = s.ea k) ∨ (∃ x : Reg, i = .ldMemVx x ∧ ∃ k ≤ x.val, a = s.ea k)

/-- 10_state.md R26, R45: only CALL writes STACK, only CALL and RET write SP, and only they halt
the core by executing. -/
def Obligations.OnlyCallAndReturnTouchTheStack : Prop :=
  ∀ (i : Instr) (s t : State), exec i s = .next t →
    (t.stack ≠ s.stack → ∃ nnn, i = .call nnn) ∧
    (t.sp ≠ s.sp ∨ t.run ≠ s.run ∨ t.haltReason ≠ s.haltReason ∨ t.reports ≠ s.reports →
      i = .ret ∨ ∃ nnn, i = .call nnn)

/-- 10_state.md R38, R45; 45_execution_cycle.md R165: no instruction writes TONE, the key snapshots,
STEP_REQ, an input or a parameter, hands over a frame or clears DIRTY; DT, ST and I are written only
by the instructions R45 names. -/
def Obligations.InstructionWriteRights : Prop :=
  ∀ (i : Instr) (s t : State), exec i s = .next t →
    t.tone = s.tone ∧ t.keyCur = s.keyCur ∧ t.keyPrev = s.keyPrev ∧ t.stepReq = s.stepReq ∧
    t.inputs = s.inputs ∧ t.build = s.build ∧ t.frames = s.frames ∧
    (s.dirty = true → t.dirty = true) ∧
    (t.dt ≠ s.dt → ∃ x, i = .ldDtVx x) ∧ (t.st ≠ s.st → ∃ x, i = .ldStVx x) ∧
    (t.i ≠ s.i → (∃ nnn, i = .ldI nnn) ∨ (∃ x, i = .addI x) ∨ (∃ x, i = .ldF x) ∨
      (s.inputs.advanceI = true ∧ ∃ x, i = .ldMemVx x ∨ i = .ldVxMem x))

/-- 45_execution_cycle.md R169, 41_alu.md R121: only CXNN reads or consumes RAND; every other
instruction does the same whatever the random source holds. -/
def Obligations.OnlyRandomReadsTheRandomSource : Prop :=
  ∀ (i : Instr) (s : State) (xs : List Byte) (n : Nat), (∀ x nn, i ≠ .rnd x nn) →
    ∃ t, exec i s = .next t ∧ t.rand = s.rand ∧ t.randDrawn = s.randDrawn ∧
      exec i { s with rand := xs, randDrawn := n } = .next { t with rand := xs, randDrawn := n }

/-- 10_state.md R46: 8XY6 and 8XYE do not read V[X] (for Y other than X), and 6XNN, 8XY0, CXNN, FX07
and a completing FX0A write V[X] without reading it: putting any value into V[X] first changes
nothing. -/
def Obligations.OldVxHasNoInfluence : Prop :=
  ∀ (s : State) (x : Reg) (a : Byte),
    (∀ y : Reg, y ≠ x →
      exec (.shrReg x y) (s.setReg x a) = exec (.shrReg x y) s ∧
      exec (.shlReg x y) (s.setReg x a) = exec (.shlReg x y) s ∧
      exec (.ldReg x y) (s.setReg x a) = exec (.ldReg x y) s) ∧
    (∀ nn : Byte,
      exec (.ldImm x nn) (s.setReg x a) = exec (.ldImm x nn) s ∧
      exec (.rnd x nn) (s.setReg x a) = exec (.rnd x nn) s) ∧
    exec (.ldVxDt x) (s.setReg x a) = exec (.ldVxDt x) s ∧
    ((∃ k < 16, s.keyUpEdge k = true) → exec (.ldVxK x) (s.setReg x a) = exec (.ldVxK x) s)

/-! ### Control flow (spec/40_flow.md) -/

/-- R101. -/
def Obligations.JumpSetsPc : Prop :=
  ∀ (nnn : Addr) (s : State), ∃ t, exec (.jp nnn) s = .next t ∧ t.pc.toNat = nnn.toNat ∧
    Untouched { pc := true } s t

/-- R107. That the sum is not masked to 12 bits is the spec's decision D34 (log entry 25). -/
def Obligations.JumpV0SetsPcToSum : Prop :=
  ∀ (nnn : Addr) (s : State), ∃ t, exec (.jpV0 nnn) s = .next t ∧
    t.pc.toNat = nnn.toNat + (s.reg 0).toNat ∧ Untouched { pc := true } s t

/-- R102: below 16 entries PC is pushed and becomes NNN; at 16 StackOverflow is raised with the
opcode 0x2NNN and nothing else changes (for PC, R191 gives this as the spec's decision D7, log entry
9). -/
def Obligations.CallPushesPcOrOverflows : Prop :=
  ∀ (nnn : Addr) (s : State),
    (∀ h : s.sp.val < 16, ∃ t, exec (.call nnn) s = .next t ∧ t.stack[s.sp.val] = s.pc ∧
      t.sp.val = s.sp.val + 1 ∧ t.pc.toNat = nnn.toNat ∧
      Untouched { pc := true, sp := true, cells := [⟨s.sp.val, h⟩] } s t) ∧
    (s.sp.val = 16 → ∃ t, exec (.call nnn) s = .next t ∧
      Raised .stackOverflow (BitVec.ofNat 16 (0x2000 + nnn.toNat)) s t)

/-- R100: above 0 entries the top entry becomes PC; at 0 StackUnderflow is raised with the opcode
0x00EE and nothing else changes (for PC, R191 gives this as the spec's decision D7, log entry 9). -/
def Obligations.ReturnPopsPcOrUnderflows : Prop :=
  ∀ s : State,
    (∀ k : Fin 16, k.val + 1 = s.sp.val → ∃ t, exec .ret s = .next t ∧ t.pc = s.stack[k.val] ∧
      t.sp.val = k.val ∧ Untouched { pc := true, sp := true } s t) ∧
    (s.sp.val = 0 → ∃ t, exec .ret s = .next t ∧ Raised .stackUnderflow 0x00EE s t)

/-- R100, R102: a CALL followed at once by a RET comes back to the instruction after the CALL with
the stack as deep as before. -/
def Obligations.ReturnAfterCallComesBack : Prop :=
  ∀ (nnn : Addr) (s : State) (h : s.sp.val < 16),
    ∃ t u, exec (.call nnn) s = .next t ∧ exec .ret t = .next u ∧
      Untouched { cells := [⟨s.sp.val, h⟩] } s u

/-- R102, 60_exceptions.md R183: from an empty stack sixteen calls succeed and the seventeenth
raises StackOverflow. -/
def Obligations.SeventeenthCallOverflows : Prop :=
  ∀ (s : State) (targets : List Addr) (nnn : Addr), s.sp.val = 0 → targets.length = 16 →
    ∃ t u, execAll (targets.map .call) s = .next t ∧ t.run = s.run ∧ t.sp.val = 16 ∧
      exec (.call nnn) t = .next u ∧
      Raised .stackOverflow (BitVec.ofNat 16 (0x2000 + nnn.toNat)) t u

/-- R103, R104, R105, R106: a skip adds two to PC when its condition holds. With X = Y, SE always
skips and SNE never does. -/
def Obligations.ConditionalSkips : Prop :=
  ∀ (x y : Reg) (nn : Byte) (s : State),
    (∃ t, exec (.seImm x nn) s = .next t ∧ Untouched { pc := true } s t ∧
      t.pc = if s.reg x = nn then s.pc + 2 else s.pc) ∧
    (∃ t, exec (.sneImm x nn) s = .next t ∧ Untouched { pc := true } s t ∧
      t.pc = if s.reg x ≠ nn then s.pc + 2 else s.pc) ∧
    (∃ t, exec (.seReg x y) s = .next t ∧ Untouched { pc := true } s t ∧
      t.pc = if s.reg x = s.reg y then s.pc + 2 else s.pc) ∧
    (∃ t, exec (.sneReg x y) s = .next t ∧ Untouched { pc := true } s t ∧
      t.pc = if s.reg x ≠ s.reg y then s.pc + 2 else s.pc)

/-! ### Load, arithmetic, logic, shift, random (spec/41_alu.md) -/

/-- R110. -/
def Obligations.LoadImmediate : Prop :=
  ∀ (x : Reg) (nn : Byte) (s : State), ∃ t, exec (.ldImm x nn) s = .next t ∧ t.reg x = nn ∧
    Untouched { regs := [x] } s t

/-- R111, R112: 7XNN wraps and 8XY0 copies, and neither writes a flag. That VF is an ordinary
destination of 7XNN when X = 0xF is the spec's decision D36, and that 8XY0 exists is its decision D9
(log entries 24 and 11). -/
def Obligations.AddImmediateAndCopySetNoFlag : Prop :=
  ∀ (x y : Reg) (nn : Byte) (s : State),
    (∃ t, exec (.addImm x nn) s = .next t ∧ Untouched { regs := [x] } s t ∧
      (t.reg x).toNat = ((s.reg x).toNat + nn.toNat) % 256) ∧
    (∃ t, exec (.ldReg x y) s = .next t ∧ Untouched { regs := [x] } s t ∧ t.reg x = s.reg y)

/-- R113, R114, R115: VF becomes 0, also when X = 0xF, where the result is overwritten (R122 gives
the order of the two writes as the spec's decision D8, log entry 10). -/
def Obligations.LogicClearsVf : Prop :=
  ∀ (x y : Reg) (s : State),
    (∃ t, exec (.orReg x y) s = .next t ∧ t.reg vf = 0 ∧ Untouched { regs := [x, vf] } s t ∧
      (x ≠ vf → t.reg x = s.reg x ||| s.reg y)) ∧
    (∃ t, exec (.andReg x y) s = .next t ∧ t.reg vf = 0 ∧ Untouched { regs := [x, vf] } s t ∧
      (x ≠ vf → t.reg x = s.reg x &&& s.reg y)) ∧
    (∃ t, exec (.xorReg x y) s = .next t ∧ t.reg vf = 0 ∧ Untouched { regs := [x, vf] } s t ∧
      (x ≠ vf → t.reg x = s.reg x ^^^ s.reg y))

/-- R116: VF becomes the carry, also when X = 0xF, where the result is overwritten (R122 gives the
order of the two writes as the spec's decision D8, log entry 10). -/
def Obligations.AddSetsCarry : Prop :=
  ∀ (x y : Reg) (s : State), ∃ t, exec (.addReg x y) s = .next t ∧
    t.reg vf = (if (s.reg x).toNat + (s.reg y).toNat > 255 then 1 else 0) ∧
    (x ≠ vf → (t.reg x).toNat = ((s.reg x).toNat + (s.reg y).toNat) % 256) ∧
    Untouched { regs := [x, vf] } s t

/-- R117, R119: VF becomes 1 when there is no borrow, the equal case included; also when X = 0xF,
where the result is overwritten (R122 gives the order of the two writes as the spec's decision D8,
log entry 10). -/
def Obligations.SubtractSetsNotBorrow : Prop :=
  ∀ (x y : Reg) (s : State),
    (∃ t, exec (.subReg x y) s = .next t ∧ Untouched { regs := [x, vf] } s t ∧
      t.reg vf = (if (s.reg x).toNat ≥ (s.reg y).toNat then 1 else 0) ∧
      (x ≠ vf → (t.reg x).toNat = ((s.reg x).toNat + 256 - (s.reg y).toNat) % 256)) ∧
    (∃ t, exec (.subnReg x y) s = .next t ∧ Untouched { regs := [x, vf] } s t ∧
      t.reg vf = (if (s.reg y).toNat ≥ (s.reg x).toNat then 1 else 0) ∧
      (x ≠ vf → (t.reg x).toNat = ((s.reg y).toNat + 256 - (s.reg x).toNat) % 256))

/-- R118, R120: VY shifted by one goes to VX and the bit shifted out to VF, also when X = 0xF, where
the result is overwritten (R122 gives the order of the two writes as the spec's decision D8, log
entry 10). -/
def Obligations.ShiftMovesVyIntoVx : Prop :=
  ∀ (x y : Reg) (s : State),
    (∃ t, exec (.shrReg x y) s = .next t ∧ Untouched { regs := [x, vf] } s t ∧
      t.reg vf = (if (s.reg y).getLsbD 0 = true then 1 else 0) ∧
      (x ≠ vf → (t.reg x).toNat = (s.reg y).toNat / 2)) ∧
    (∃ t, exec (.shlReg x y) s = .next t ∧ Untouched { regs := [x, vf] } s t ∧
      t.reg vf = (if (s.reg y).getLsbD 7 = true then 1 else 0) ∧
      (x ≠ vf → (t.reg x).toNat = (s.reg y).toNat * 2 % 256))

/-- R121: VX becomes RAND and NN, and exactly one RAND value is consumed: the first the host has
supplied, or else a free byte. The one-value rule is the spec's decision D21; where RAND comes from
is the model's choice (log entry 4). Nothing is said of a free byte's value. -/
def Obligations.RandomIsMaskedAndConsumed : Prop :=
  ∀ (x : Reg) (nn : Byte) (s : State), ∃ t, exec (.rnd x nn) s = .next t ∧
    (∀ r rs, s.rand = r :: rs → t.reg x = r &&& nn ∧ t.rand = rs ∧ t.randDrawn = s.randDrawn) ∧
    (s.rand = [] → t.reg x = Config.freeRand s.randDrawn &&& nn ∧ t.rand = [] ∧
      t.randDrawn = s.randDrawn + 1) ∧
    Untouched { regs := [x], rand := true } s t

/-! ### Index register and memory (spec/42_index_memory.md) -/

/-- R130: the upper four bits of I become 0. R132: only the low nibble of VX counts, and memory is
not read. -/
def Obligations.IndexLoads : Prop :=
  ∀ (nnn : Addr) (x : Reg) (s : State),
    (∃ t, exec (.ldI nnn) s = .next t ∧ t.i.toNat = nnn.toNat ∧ Untouched { i := true } s t) ∧
    (∃ t, exec (.ldF x) s = .next t ∧ Untouched { i := true } s t ∧
      t.i.toNat = s.build.fontBase.val + 5 * ((s.reg x).toNat % 16))

/-- R131. The wrap at 16 bits is the spec's decision D5 (log entry 13). -/
def Obligations.AddToIndexWraps : Prop :=
  ∀ (x : Reg) (s : State), ∃ t, exec (.addI x) s = .next t ∧
    t.i.toNat = (s.i.toNat + (s.reg x).toNat) % 65536 ∧ Untouched { i := true } s t

/-- R133: the three decimal digits of VX go to ea(0), ea(1), ea(2). -/
def Obligations.DecimalDigitsAreStored : Prop :=
  ∀ (x : Reg) (s : State), ∃ t, exec (.ldB x) s = .next t ∧
    (t.loadByte (s.ea 0)).toNat = (s.reg x).toNat / 100 ∧
    (t.loadByte (s.ea 1)).toNat = (s.reg x).toNat / 10 % 10 ∧
    (t.loadByte (s.ea 2)).toNat = (s.reg x).toNat % 10 ∧
    Untouched { bytes := [s.ea 0, s.ea 1, s.ea 2] } s t

/-- R134: V0..VX go to ea(0)..ea(X), and I moves by X + 1 exactly when ADVANCE_I is true. -/
def Obligations.RegistersAreDumped : Prop :=
  ∀ (x : Reg) (s : State), ∃ t, exec (.ldMemVx x) s = .next t ∧
    (∀ r : Reg, r ≤ x → t.loadByte (s.ea r.val) = s.reg r) ∧
    t.i.toNat = (if s.inputs.advanceI = true then (s.i.toNat + x.val + 1) % 65536 else s.i.toNat) ∧
    Untouched { bytes := (List.range (x.val + 1)).map s.ea, i := true } s t

/-- R135: V0..VX come from ea(0)..ea(X), the registers above VX are unchanged, and I moves by X + 1
exactly when ADVANCE_I is true. -/
def Obligations.RegistersAreLoaded : Prop :=
  ∀ (x : Reg) (s : State), ∃ t, exec (.ldVxMem x) s = .next t ∧
    (∀ r : Reg, r ≤ x → t.reg r = s.loadByte (s.ea r.val)) ∧
    t.i.toNat = (if s.inputs.advanceI = true then (s.i.toNat + x.val + 1) % 65536 else s.i.toNat) ∧
    Untouched { regs := (List.finRange 16).filter (fun r => decide (r ≤ x)), i := true } s t

/-- R135, 95_test_vectors.md S4: a dump and then a load with the same X and I restore V0..VX,
whatever the V registers held in between, and I ends moved by X + 1 exactly when ADVANCE_I is
true. -/
def Obligations.LoadAfterDumpRestoresRegisters : Prop :=
  ∀ (x : Reg) (s : State) (between : Vector Byte 16),
    ∃ t u, exec (.ldMemVx x) s = .next t ∧
      exec (.ldVxMem x) { t with v := between, i := s.i } = .next u ∧
      (∀ r : Reg, r ≤ x → u.reg r = s.reg r) ∧
      u.i.toNat = (if s.inputs.advanceI = true then (s.i.toNat + x.val + 1) % 65536 else s.i.toNat)

/-- 20_memory.md R64, 70_reset_and_hazards.md R225: a byte that FX55 writes where the next fetch
reads is the byte the fetch reads. -/
def Obligations.NextFetchSeesStoredBytes : Prop :=
  ∀ (x r : Reg) (s t : State), exec (.ldMemVx x) s = .next t → r ≤ x → s.pc.toNat ≤ 4094 →
    ((s.ea r.val).toNat = s.pc.toNat → highByte (t.opcodeAt t.pc) = s.reg r) ∧
    ((s.ea r.val).toNat = s.pc.toNat + 1 → lowByte (t.opcodeAt t.pc) = s.reg r)

/-! ### Display (spec/43_display.md) -/

/-- R140. -/
def Obligations.ClearBlanksTheScreen : Prop :=
  ∀ s : State, ∃ t, exec .cls s = .next t ∧
    (∀ px < 64, ∀ py < 32, t.fb.pixel px py = false) ∧ t.dirty = true ∧
    Untouched { fb := true } s t

/-- R141: a pixel of the screen flips exactly when the sprite sets it, VF is 1 exactly when a lit
pixel is among those, and DIRTY is set. Which bit is leftmost, that the coordinates are read before
VF is written and what N = 0 does are the spec's decisions D13 and D27 (log entries 15 and 30). -/
def Obligations.DrawFlipsExactlyTheSpritePixels : Prop :=
  ∀ (x y : Reg) (n : Count) (s : State), ∃ t, exec (.drw x y n) s = .next t ∧
    (∀ px < 64, ∀ py < 32, (SpriteSets s x y n px py → t.fb.pixel px py = !s.fb.pixel px py) ∧
      (¬SpriteSets s x y n px py → t.fb.pixel px py = s.fb.pixel px py)) ∧
    (t.reg vf = 0 ∨ t.reg vf = 1) ∧
    (t.reg vf = 1 ↔
      ∃ px < 64, ∃ py < 32, SpriteSets s x y n px py ∧ s.fb.pixel px py = true) ∧
    t.dirty = true ∧ Untouched { regs := [vf], fb := true } s t

/-- R141, corner cases: drawing the same sprite twice at the same place restores FB. The second VF
is 1 exactly when some visible sprite pixel was 0 before the first draw (log entry 34: the corner
case's own words say less than the operation). -/
def Obligations.DrawingTwiceRestoresTheScreen : Prop :=
  ∀ (x y : Reg) (n : Count) (s t u : State), exec (.drw x y n) s = .next t →
    exec (.drw x y n) t = .next u →
    (t.reg x).toNat % 64 = (s.reg x).toNat % 64 → (t.reg y).toNat % 32 = (s.reg y).toNat % 32 →
    u.fb = s.fb ∧
    (u.reg vf = 1 ↔
      ∃ px < 64, ∃ py < 32, SpriteSets s x y n px py ∧ s.fb.pixel px py = false)

/-! ### Keys and timers (spec/44_keys_timers.md) -/

/-- R150, R151. The mask on the key index is the spec's decision D11 (log entry 12). -/
def Obligations.SkipOnKey : Prop :=
  ∀ (x : Reg) (s : State),
    (∃ t, exec (.skp x) s = .next t ∧ Untouched { pc := true } s t ∧
      t.pc = if s.keyCur.getLsbD ((s.reg x).toNat % 16) = true then s.pc + 2 else s.pc) ∧
    (∃ t, exec (.sknp x) s = .next t ∧ Untouched { pc := true } s t ∧
      t.pc = if s.keyCur.getLsbD ((s.reg x).toNat % 16) = false then s.pc + 2 else s.pc)

/-- R152, R154, R155; TONE is written by none of them. That TONE does not follow FX18 before the next
tick is the spec's decision D14 (log entry 28). -/
def Obligations.TimerMoves : Prop :=
  ∀ (x : Reg) (s : State),
    (∃ t, exec (.ldVxDt x) s = .next t ∧ t.reg x = s.dt ∧ Untouched { regs := [x] } s t) ∧
    (∃ t, exec (.ldDtVx x) s = .next t ∧ t.dt = s.reg x ∧ Untouched { dt := true } s t) ∧
    (∃ t, exec (.ldStVx x) s = .next t ∧ t.st = s.reg x ∧ Untouched { st := true } s t)

/-- R153: with a key-up edge FX0A completes with the lowest such key; without one it rewinds PC by 2
and changes nothing else. The lowest index is the spec's decision D12 (log entry 14). -/
def Obligations.WaitKeyCompletesOnLowestEdge : Prop :=
  ∀ (x : Reg) (s : State),
    (∀ k < 16, s.keyPrev.getLsbD k = true → s.keyCur.getLsbD k = false →
      (∀ j < k, ¬(s.keyPrev.getLsbD j = true ∧ s.keyCur.getLsbD j = false)) →
      ∃ t, exec (.ldVxK x) s = .next t ∧ (t.reg x).toNat = k ∧ Untouched { regs := [x] } s t) ∧
    ((∀ k < 16, ¬(s.keyPrev.getLsbD k = true ∧ s.keyCur.getLsbD k = false)) →
      ∃ t, exec (.ldVxK x) s = .next t ∧ t.pc = s.pc - 2 ∧ Untouched { pc := true } s t)

/-- R153, 95_test_vectors.md S7: without a released key any number of steps at an FX0A leaves the
whole state as it was. -/
def Obligations.WaitKeyPollsInPlace : Prop :=
  ∀ (n : Nat) (x : Reg) (s : State), s.run = .running → s.inputs.stepMode = false →
    s.pc.toNat ≤ 4094 → decode (opcodeAtPc s) = .ok (.ldVxK x) →
    (∀ k < 16, ¬(s.keyPrev.getLsbD k = true ∧ s.keyCur.getLsbD k = false)) →
    applyAll (List.replicate n .step) s = .next s

/-! ### The host's operations (spec/60_exceptions.md, spec/70_reset_and_hazards.md) -/

/-- R193: both timers count down to a floor of 0, TONE follows the ST just written, and nothing else
changes. -/
def Obligations.TickCountsTimersDown : Prop :=
  ∀ s : State, s.tickTimers.dt.toNat = s.dt.toNat - 1 ∧ s.tickTimers.st.toNat = s.st.toNat - 1 ∧
    (s.tickTimers.tone = true ↔ 0 < s.tickTimers.st.toNat) ∧
    { s.tickTimers with dt := s.dt, st := s.st, tone := s.tone } = s

/-- R193, R222: after FX18 the k-th tick, k at least 1, leaves ST at VX - k (floor 0) and TONE set
exactly when k is below VX. -/
def Obligations.ToneSoundsOneTickLessThanSt : Prop :=
  ∀ (x : Reg) (s t : State) (k : Nat), exec (.ldStVx x) s = .next t → 1 ≤ k →
    (State.tickTimers^[k] t).st.toNat = (s.reg x).toNat - k ∧
    (State.tickTimers^[k] t).tone = decide (k < (s.reg x).toNat)

/-- R195: the current snapshot becomes the previous one, the vector given becomes the current one,
nothing else changes; and the same vector twice erases every edge. -/
def Obligations.UpdateKeysShiftsSnapshots : Prop :=
  ∀ (s : State) (new : Word),
    (s.updateKeys new).keyPrev = s.keyCur ∧ (s.updateKeys new).keyCur = new ∧
    { s.updateKeys new with keyPrev := s.keyPrev, keyCur := s.keyCur } = s ∧
    ∀ k < 16, ((s.updateKeys new).updateKeys new).keyUpEdge k = false

/-- R196, R197: consume_frame hands over FB and clears DIRTY when it is set and does nothing when it
is clear; request_advance sets STEP_REQ, and a second request adds nothing. These are the spec's
decisions D29 and D20 (log entries 29 and 20). -/
def Obligations.ConsumeFrameAndRequestAdvance : Prop :=
  ∀ s : State,
    (s.dirty = true → s.consumeFrame = { s with frames := s.frames ++ [s.fb], dirty := false }) ∧
    (s.dirty = false → s.consumeFrame = s) ∧
    s.consumeFrame.consumeFrame = s.consumeFrame ∧
    s.requestAdvance = { s with stepReq := true } ∧
    s.requestAdvance.requestAdvance = s.requestAdvance

/-- R43, R210: reset with a ROM that fits, from any state. Memory is the ROM at 0x200, the glyphs at
FONT_BASE + 5 d and 0 elsewhere; every other piece of state has its reset value; nothing is reported.
The values R43 marks D16 are the spec's decision (log entry 18). -/
def Obligations.ResetLoadsTheRom : Prop :=
  ∀ (s : State) (rom : List Byte), rom.length ≤ 3584 →
    (∀ (j : Nat) (h : j < rom.length),
      (s.resetWith (some rom)).loadByte (BitVec.ofNat 12 (0x200 + j)) = rom[j]) ∧
    (∀ (d : Fin 16) (j : Fin 5), (s.resetWith (some rom)).loadByte
      (BitVec.ofNat 12 (s.build.fontBase.val + 5 * d.val + j.val)) = s.build.fontTable[d.val][j.val]) ∧
    (∀ a : Addr, ¬(0x200 ≤ a.toNat ∧ a.toNat < 0x200 + rom.length) →
      ¬(s.build.fontBase.val ≤ a.toNat ∧ a.toNat < s.build.fontBase.val + 80) →
      (s.resetWith (some rom)).loadByte a = 0) ∧
    { s.resetWith (some rom) with mem := [] } =
      { State.reset with
        build := s.build
        inputs := s.inputs
        rand := s.rand
        randDrawn := s.randDrawn
        reports := s.reports
        frames := s.frames }

/-- R212: a ROM above 3584 bytes and an absent ROM leave the core Halted with that reason, one report
with info 0, no ROM byte copied and every other piece of state at its reset value. This is the
spec's decision D17 (log entry 19). That the frames, the random source and the earlier reports are
kept is the model's choice (log entry 5). -/
def Obligations.FailedLoadHalts : Prop :=
  ∀ (s : State) (rom : Option (List Byte)) (c : Condition),
    (rom = none ∧ c = .romUnreadable ∨
      ∃ bytes : List Byte, rom = some bytes ∧ 3584 < bytes.length ∧ c = .romTooLarge) →
    s.resetWith rom =
      { State.reset with
        build := s.build
        inputs := s.inputs
        rand := s.rand
        randDrawn := s.randDrawn
        frames := s.frames
        run := .halted
        haltReason := some c
        reports := s.reports ++ [⟨c, 0⟩] }

/-- R43, R44, R51: the state after reset, register by register, with an empty program region and the
default font. The values R43 marks D16 are the spec's decision (log entry 18), the font bytes R44
gives from general knowledge (log entry 3). -/
def Obligations.ResetStateValues : Prop :=
  (∀ r : Reg, State.reset.reg r = 0) ∧ State.reset.i = 0 ∧ State.reset.pc = 0x200 ∧
  State.reset.sp.val = 0 ∧ (∀ k : Fin 16, State.reset.stack[k.val] = 0) ∧ State.reset.dt = 0 ∧
  State.reset.st = 0 ∧ State.reset.tone = false ∧
  (∀ px < 64, ∀ py < 32, State.reset.fb.pixel px py = false) ∧ State.reset.dirty = false ∧
  State.reset.keyCur = 0 ∧ State.reset.keyPrev = 0 ∧ State.reset.run = .running ∧
  State.reset.haltReason = none ∧ State.reset.stepReq = false ∧
  (List.range 10).map (fun k => State.reset.loadByte (BitVec.ofNat 12 k)) =
    [0xF0, 0x90, 0x90, 0x90, 0xF0, 0x20, 0x60, 0x20, 0x20, 0x70] ∧
  (∀ a : Addr, 80 ≤ a.toNat → State.reset.loadByte a = 0)
end

