-- ==== Sys2Proof/Laws/Decode.lean ====
section
/-! SUPPORT. The fields of an encoded opcode, format by format (spec/30_encoding.md R71, R72), and
what the masks of the opcode map select. -/

namespace Sys2Proof

theorem fieldX_val (op : Word) : (fieldX op).val = op.toNat / 256 % 16 := rfl

theorem fieldY_val (op : Word) : (fieldY op).val = op.toNat / 16 % 16 := rfl

theorem fieldN_val (op : Word) : (fieldN op).val = op.toNat % 16 := rfl

/-! ### Format A -/

theorem encodeA_toNat (op : Nat) (nnn : Addr) (h : op < 16) :
    (encodeA op nnn).toNat = op * 4096 + nnn.toNat := by
  have := nnn.isLt; simp only [encodeA, BitVec.toNat_ofNat]; omega

theorem fieldOp_encodeA (op : Nat) (nnn : Addr) (h : op < 16) : fieldOp (encodeA op nnn) = op := by
  have := nnn.isLt; rw [fieldOp, encodeA_toNat op nnn h]; omega

theorem fieldNNN_encodeA (op : Nat) (nnn : Addr) (h : op < 16) :
    fieldNNN (encodeA op nnn) = nnn := by
  have := nnn.isLt
  apply BitVec.eq_of_toNat_eq
  rw [fieldNNN, encodeA_toNat op nnn h, BitVec.toNat_ofNat]; omega

/-! ### Format I -/

theorem encodeI_toNat (op : Nat) (x : Reg) (nn : Byte) (h : op < 16) :
    (encodeI op x nn).toNat = op * 4096 + x.val * 256 + nn.toNat := by
  have := nn.isLt; have := x.isLt; simp only [encodeI, BitVec.toNat_ofNat]; omega

theorem fieldOp_encodeI (op : Nat) (x : Reg) (nn : Byte) (h : op < 16) :
    fieldOp (encodeI op x nn) = op := by
  have := nn.isLt; have := x.isLt; rw [fieldOp, encodeI_toNat op x nn h]; omega

theorem fieldX_encodeI (op : Nat) (x : Reg) (nn : Byte) (h : op < 16) :
    fieldX (encodeI op x nn) = x := by
  have := nn.isLt; have := x.isLt
  apply Fin.ext; rw [fieldX_val, encodeI_toNat op x nn h]; omega

theorem fieldNN_encodeI (op : Nat) (x : Reg) (nn : Byte) (h : op < 16) :
    fieldNN (encodeI op x nn) = nn := by
  have := nn.isLt; have := x.isLt
  apply BitVec.eq_of_toNat_eq
  rw [fieldNN, encodeI_toNat op x nn h, BitVec.toNat_ofNat]; omega

/-! ### Formats R and D -/

theorem encodeR_toNat (op : Nat) (x y : Reg) (n : Nat) (h : op < 16) (hn : n < 16) :
    (encodeR op x y n).toNat = op * 4096 + x.val * 256 + y.val * 16 + n := by
  have := y.isLt; have := x.isLt; simp only [encodeR, BitVec.toNat_ofNat]; omega

theorem fieldOp_encodeR (op : Nat) (x y : Reg) (n : Nat) (h : op < 16) (hn : n < 16) :
    fieldOp (encodeR op x y n) = op := by
  have := y.isLt; have := x.isLt; rw [fieldOp, encodeR_toNat op x y n h hn]; omega

theorem fieldX_encodeR (op : Nat) (x y : Reg) (n : Nat) (h : op < 16) (hn : n < 16) :
    fieldX (encodeR op x y n) = x := by
  have := y.isLt; have := x.isLt
  apply Fin.ext; rw [fieldX_val, encodeR_toNat op x y n h hn]; omega

theorem fieldY_encodeR (op : Nat) (x y : Reg) (n : Nat) (h : op < 16) (hn : n < 16) :
    fieldY (encodeR op x y n) = y := by
  have := y.isLt; have := x.isLt
  apply Fin.ext; rw [fieldY_val, encodeR_toNat op x y n h hn]; omega

theorem fieldN_encodeR (op : Nat) (x y : Reg) (n : Nat) (h : op < 16) (hn : n < 16) :
    (fieldN (encodeR op x y n)).val = n := by
  have := y.isLt; have := x.isLt
  rw [fieldN_val, encodeR_toNat op x y n h hn]; omega

/-! ### Format S -/

theorem encodeS_toNat (op : Nat) (x : Reg) (n : Nat) (h : op < 16) (hn : n < 256) :
    (encodeS op x n).toNat = op * 4096 + x.val * 256 + n := by
  have := x.isLt; simp only [encodeS, BitVec.toNat_ofNat]; omega

theorem fieldOp_encodeS (op : Nat) (x : Reg) (n : Nat) (h : op < 16) (hn : n < 256) :
    fieldOp (encodeS op x n) = op := by
  have := x.isLt; rw [fieldOp, encodeS_toNat op x n h hn]; omega

theorem fieldX_encodeS (op : Nat) (x : Reg) (n : Nat) (h : op < 16) (hn : n < 256) :
    fieldX (encodeS op x n) = x := by
  have := x.isLt
  apply Fin.ext; rw [fieldX_val, encodeS_toNat op x n h hn]; omega

theorem fieldNN_encodeS (op : Nat) (x : Reg) (n : Nat) (h : op < 16) (hn : n < 256) :
    (fieldNN (encodeS op x n)).toNat = n := by
  have := x.isLt
  rw [fieldNN, encodeS_toNat op x n h hn, BitVec.toNat_ofNat]; omega

/-! ### Words, bytes and masks -/

theorem fieldOp_lt (op : Word) : fieldOp op < 16 := by
  have := op.isLt; unfold fieldOp; omega

/-- The two bytes of an opcode, read big-endian, are the opcode (20_memory.md R57). -/
@[simp] theorem bigEndian_bytes (op : Word) : bigEndian (highByte op) (lowByte op) = op := by
  have := op.isLt
  apply BitVec.eq_of_toNat_eq
  simp only [bigEndian, highByte, lowByte, BitVec.toNat_ofNat]; omega

theorem bigEndian_toNat (hi lo : Byte) : (bigEndian hi lo).toNat = hi.toNat * 256 + lo.toNat := by
  have := hi.isLt; have := lo.isLt; simp only [bigEndian, BitVec.toNat_ofNat]; omega

theorem maskF000_low : ∀ j : Fin 12, (0xF000#16).getLsbD j.val = false := by decide

/-- The mask 0xF000 keeps the leading nibble. -/
theorem and_maskF000 (op : Word) : op &&& 0xF000#16 = BitVec.ofNat 16 (fieldOp op * 4096) := by
  have h : op &&& 0xF000#16 = (op >>> 12) <<< 12 := by
    ext i hi
    have : i < 12 ∨ i = 12 ∨ i = 13 ∨ i = 14 ∨ i = 15 := by omega
    rcases this with h | rfl | rfl | rfl | rfl
    · have : (0xF000#16)[i] = false := maskF000_low ⟨i, h⟩
      simp [this, h]
    all_goals simp
  have := op.isLt
  rw [h]
  apply BitVec.eq_of_toNat_eq
  simp only [fieldOp, BitVec.toNat_shiftLeft, BitVec.toNat_ushiftRight, BitVec.toNat_ofNat,
    Nat.shiftLeft_eq, Nat.shiftRight_eq_div_pow]

/-- The decoder rejects an opcode only by its own name. -/
theorem decode_error (op : Word) (e : DecodeError) (h : decode op = .error e) :
    e = .unknownOpcode op := by
  unfold decode decode0 decode8 decodeE decodeF decodeNibble0 at h
  repeat' split at h
  all_goals first | (cases h; rfl) | cases h

end Sys2Proof
end

