-- ==== Sys2Proof/Laws/State.lean ====
section
/-! SUPPORT. One lemma per field per update of State, so that no proof unfolds a record update; then
the same for the readers `reg`, `loadByte` and `ea`. -/

namespace Sys2Proof.Machine

variable (s : State)

/-! ### storeByte -/

@[simp] theorem State.storeByte_mem (a : Addr) (x : Byte) : (s.storeByte a x).mem = Memory.write s.build s.mem a.toNat x := rfl
@[simp] theorem State.storeByte_v (a : Addr) (x : Byte) : (s.storeByte a x).v = s.v := rfl
@[simp] theorem State.storeByte_i (a : Addr) (x : Byte) : (s.storeByte a x).i = s.i := rfl
@[simp] theorem State.storeByte_pc (a : Addr) (x : Byte) : (s.storeByte a x).pc = s.pc := rfl
@[simp] theorem State.storeByte_stack (a : Addr) (x : Byte) : (s.storeByte a x).stack = s.stack := rfl
@[simp] theorem State.storeByte_sp (a : Addr) (x : Byte) : (s.storeByte a x).sp = s.sp := rfl
@[simp] theorem State.storeByte_dt (a : Addr) (x : Byte) : (s.storeByte a x).dt = s.dt := rfl
@[simp] theorem State.storeByte_st (a : Addr) (x : Byte) : (s.storeByte a x).st = s.st := rfl
@[simp] theorem State.storeByte_tone (a : Addr) (x : Byte) : (s.storeByte a x).tone = s.tone := rfl
@[simp] theorem State.storeByte_fb (a : Addr) (x : Byte) : (s.storeByte a x).fb = s.fb := rfl
@[simp] theorem State.storeByte_dirty (a : Addr) (x : Byte) : (s.storeByte a x).dirty = s.dirty := rfl
@[simp] theorem State.storeByte_keyCur (a : Addr) (x : Byte) : (s.storeByte a x).keyCur = s.keyCur := rfl
@[simp] theorem State.storeByte_keyPrev (a : Addr) (x : Byte) : (s.storeByte a x).keyPrev = s.keyPrev := rfl
@[simp] theorem State.storeByte_run (a : Addr) (x : Byte) : (s.storeByte a x).run = s.run := rfl
@[simp] theorem State.storeByte_haltReason (a : Addr) (x : Byte) : (s.storeByte a x).haltReason = s.haltReason := rfl
@[simp] theorem State.storeByte_stepReq (a : Addr) (x : Byte) : (s.storeByte a x).stepReq = s.stepReq := rfl
@[simp] theorem State.storeByte_build (a : Addr) (x : Byte) : (s.storeByte a x).build = s.build := rfl
@[simp] theorem State.storeByte_inputs (a : Addr) (x : Byte) : (s.storeByte a x).inputs = s.inputs := rfl
@[simp] theorem State.storeByte_rand (a : Addr) (x : Byte) : (s.storeByte a x).rand = s.rand := rfl
@[simp] theorem State.storeByte_randDrawn (a : Addr) (x : Byte) : (s.storeByte a x).randDrawn = s.randDrawn := rfl
@[simp] theorem State.storeByte_reports (a : Addr) (x : Byte) : (s.storeByte a x).reports = s.reports := rfl
@[simp] theorem State.storeByte_frames (a : Addr) (x : Byte) : (s.storeByte a x).frames = s.frames := rfl

/-! ### setReg -/

@[simp] theorem State.setReg_mem (r : Reg) (x : Byte) : (s.setReg r x).mem = s.mem := rfl
@[simp] theorem State.setReg_v (r : Reg) (x : Byte) : (s.setReg r x).v = s.v.set r.val x := rfl
@[simp] theorem State.setReg_i (r : Reg) (x : Byte) : (s.setReg r x).i = s.i := rfl
@[simp] theorem State.setReg_pc (r : Reg) (x : Byte) : (s.setReg r x).pc = s.pc := rfl
@[simp] theorem State.setReg_stack (r : Reg) (x : Byte) : (s.setReg r x).stack = s.stack := rfl
@[simp] theorem State.setReg_sp (r : Reg) (x : Byte) : (s.setReg r x).sp = s.sp := rfl
@[simp] theorem State.setReg_dt (r : Reg) (x : Byte) : (s.setReg r x).dt = s.dt := rfl
@[simp] theorem State.setReg_st (r : Reg) (x : Byte) : (s.setReg r x).st = s.st := rfl
@[simp] theorem State.setReg_tone (r : Reg) (x : Byte) : (s.setReg r x).tone = s.tone := rfl
@[simp] theorem State.setReg_fb (r : Reg) (x : Byte) : (s.setReg r x).fb = s.fb := rfl
@[simp] theorem State.setReg_dirty (r : Reg) (x : Byte) : (s.setReg r x).dirty = s.dirty := rfl
@[simp] theorem State.setReg_keyCur (r : Reg) (x : Byte) : (s.setReg r x).keyCur = s.keyCur := rfl
@[simp] theorem State.setReg_keyPrev (r : Reg) (x : Byte) : (s.setReg r x).keyPrev = s.keyPrev := rfl
@[simp] theorem State.setReg_run (r : Reg) (x : Byte) : (s.setReg r x).run = s.run := rfl
@[simp] theorem State.setReg_haltReason (r : Reg) (x : Byte) : (s.setReg r x).haltReason = s.haltReason := rfl
@[simp] theorem State.setReg_stepReq (r : Reg) (x : Byte) : (s.setReg r x).stepReq = s.stepReq := rfl
@[simp] theorem State.setReg_build (r : Reg) (x : Byte) : (s.setReg r x).build = s.build := rfl
@[simp] theorem State.setReg_inputs (r : Reg) (x : Byte) : (s.setReg r x).inputs = s.inputs := rfl
@[simp] theorem State.setReg_rand (r : Reg) (x : Byte) : (s.setReg r x).rand = s.rand := rfl
@[simp] theorem State.setReg_randDrawn (r : Reg) (x : Byte) : (s.setReg r x).randDrawn = s.randDrawn := rfl
@[simp] theorem State.setReg_reports (r : Reg) (x : Byte) : (s.setReg r x).reports = s.reports := rfl
@[simp] theorem State.setReg_frames (r : Reg) (x : Byte) : (s.setReg r x).frames = s.frames := rfl

/-! ### setI -/

@[simp] theorem State.setI_mem (w : Word) : (s.setI w).mem = s.mem := rfl
@[simp] theorem State.setI_v (w : Word) : (s.setI w).v = s.v := rfl
@[simp] theorem State.setI_i (w : Word) : (s.setI w).i = w := rfl
@[simp] theorem State.setI_pc (w : Word) : (s.setI w).pc = s.pc := rfl
@[simp] theorem State.setI_stack (w : Word) : (s.setI w).stack = s.stack := rfl
@[simp] theorem State.setI_sp (w : Word) : (s.setI w).sp = s.sp := rfl
@[simp] theorem State.setI_dt (w : Word) : (s.setI w).dt = s.dt := rfl
@[simp] theorem State.setI_st (w : Word) : (s.setI w).st = s.st := rfl
@[simp] theorem State.setI_tone (w : Word) : (s.setI w).tone = s.tone := rfl
@[simp] theorem State.setI_fb (w : Word) : (s.setI w).fb = s.fb := rfl
@[simp] theorem State.setI_dirty (w : Word) : (s.setI w).dirty = s.dirty := rfl
@[simp] theorem State.setI_keyCur (w : Word) : (s.setI w).keyCur = s.keyCur := rfl
@[simp] theorem State.setI_keyPrev (w : Word) : (s.setI w).keyPrev = s.keyPrev := rfl
@[simp] theorem State.setI_run (w : Word) : (s.setI w).run = s.run := rfl
@[simp] theorem State.setI_haltReason (w : Word) : (s.setI w).haltReason = s.haltReason := rfl
@[simp] theorem State.setI_stepReq (w : Word) : (s.setI w).stepReq = s.stepReq := rfl
@[simp] theorem State.setI_build (w : Word) : (s.setI w).build = s.build := rfl
@[simp] theorem State.setI_inputs (w : Word) : (s.setI w).inputs = s.inputs := rfl
@[simp] theorem State.setI_rand (w : Word) : (s.setI w).rand = s.rand := rfl
@[simp] theorem State.setI_randDrawn (w : Word) : (s.setI w).randDrawn = s.randDrawn := rfl
@[simp] theorem State.setI_reports (w : Word) : (s.setI w).reports = s.reports := rfl
@[simp] theorem State.setI_frames (w : Word) : (s.setI w).frames = s.frames := rfl

/-! ### setPc -/

@[simp] theorem State.setPc_mem (w : Word) : (s.setPc w).mem = s.mem := rfl
@[simp] theorem State.setPc_v (w : Word) : (s.setPc w).v = s.v := rfl
@[simp] theorem State.setPc_i (w : Word) : (s.setPc w).i = s.i := rfl
@[simp] theorem State.setPc_pc (w : Word) : (s.setPc w).pc = w := rfl
@[simp] theorem State.setPc_stack (w : Word) : (s.setPc w).stack = s.stack := rfl
@[simp] theorem State.setPc_sp (w : Word) : (s.setPc w).sp = s.sp := rfl
@[simp] theorem State.setPc_dt (w : Word) : (s.setPc w).dt = s.dt := rfl
@[simp] theorem State.setPc_st (w : Word) : (s.setPc w).st = s.st := rfl
@[simp] theorem State.setPc_tone (w : Word) : (s.setPc w).tone = s.tone := rfl
@[simp] theorem State.setPc_fb (w : Word) : (s.setPc w).fb = s.fb := rfl
@[simp] theorem State.setPc_dirty (w : Word) : (s.setPc w).dirty = s.dirty := rfl
@[simp] theorem State.setPc_keyCur (w : Word) : (s.setPc w).keyCur = s.keyCur := rfl
@[simp] theorem State.setPc_keyPrev (w : Word) : (s.setPc w).keyPrev = s.keyPrev := rfl
@[simp] theorem State.setPc_run (w : Word) : (s.setPc w).run = s.run := rfl
@[simp] theorem State.setPc_haltReason (w : Word) : (s.setPc w).haltReason = s.haltReason := rfl
@[simp] theorem State.setPc_stepReq (w : Word) : (s.setPc w).stepReq = s.stepReq := rfl
@[simp] theorem State.setPc_build (w : Word) : (s.setPc w).build = s.build := rfl
@[simp] theorem State.setPc_inputs (w : Word) : (s.setPc w).inputs = s.inputs := rfl
@[simp] theorem State.setPc_rand (w : Word) : (s.setPc w).rand = s.rand := rfl
@[simp] theorem State.setPc_randDrawn (w : Word) : (s.setPc w).randDrawn = s.randDrawn := rfl
@[simp] theorem State.setPc_reports (w : Word) : (s.setPc w).reports = s.reports := rfl
@[simp] theorem State.setPc_frames (w : Word) : (s.setPc w).frames = s.frames := rfl

/-! ### advance -/

@[simp] theorem State.advance_mem : (s.advance).mem = s.mem := rfl
@[simp] theorem State.advance_v : (s.advance).v = s.v := rfl
@[simp] theorem State.advance_i : (s.advance).i = s.i := rfl
@[simp] theorem State.advance_pc : (s.advance).pc = s.pc + 2 := rfl
@[simp] theorem State.advance_stack : (s.advance).stack = s.stack := rfl
@[simp] theorem State.advance_sp : (s.advance).sp = s.sp := rfl
@[simp] theorem State.advance_dt : (s.advance).dt = s.dt := rfl
@[simp] theorem State.advance_st : (s.advance).st = s.st := rfl
@[simp] theorem State.advance_tone : (s.advance).tone = s.tone := rfl
@[simp] theorem State.advance_fb : (s.advance).fb = s.fb := rfl
@[simp] theorem State.advance_dirty : (s.advance).dirty = s.dirty := rfl
@[simp] theorem State.advance_keyCur : (s.advance).keyCur = s.keyCur := rfl
@[simp] theorem State.advance_keyPrev : (s.advance).keyPrev = s.keyPrev := rfl
@[simp] theorem State.advance_run : (s.advance).run = s.run := rfl
@[simp] theorem State.advance_haltReason : (s.advance).haltReason = s.haltReason := rfl
@[simp] theorem State.advance_stepReq : (s.advance).stepReq = s.stepReq := rfl
@[simp] theorem State.advance_build : (s.advance).build = s.build := rfl
@[simp] theorem State.advance_inputs : (s.advance).inputs = s.inputs := rfl
@[simp] theorem State.advance_rand : (s.advance).rand = s.rand := rfl
@[simp] theorem State.advance_randDrawn : (s.advance).randDrawn = s.randDrawn := rfl
@[simp] theorem State.advance_reports : (s.advance).reports = s.reports := rfl
@[simp] theorem State.advance_frames : (s.advance).frames = s.frames := rfl

/-! ### setDt -/

@[simp] theorem State.setDt_mem (x : Byte) : (s.setDt x).mem = s.mem := rfl
@[simp] theorem State.setDt_v (x : Byte) : (s.setDt x).v = s.v := rfl
@[simp] theorem State.setDt_i (x : Byte) : (s.setDt x).i = s.i := rfl
@[simp] theorem State.setDt_pc (x : Byte) : (s.setDt x).pc = s.pc := rfl
@[simp] theorem State.setDt_stack (x : Byte) : (s.setDt x).stack = s.stack := rfl
@[simp] theorem State.setDt_sp (x : Byte) : (s.setDt x).sp = s.sp := rfl
@[simp] theorem State.setDt_dt (x : Byte) : (s.setDt x).dt = x := rfl
@[simp] theorem State.setDt_st (x : Byte) : (s.setDt x).st = s.st := rfl
@[simp] theorem State.setDt_tone (x : Byte) : (s.setDt x).tone = s.tone := rfl
@[simp] theorem State.setDt_fb (x : Byte) : (s.setDt x).fb = s.fb := rfl
@[simp] theorem State.setDt_dirty (x : Byte) : (s.setDt x).dirty = s.dirty := rfl
@[simp] theorem State.setDt_keyCur (x : Byte) : (s.setDt x).keyCur = s.keyCur := rfl
@[simp] theorem State.setDt_keyPrev (x : Byte) : (s.setDt x).keyPrev = s.keyPrev := rfl
@[simp] theorem State.setDt_run (x : Byte) : (s.setDt x).run = s.run := rfl
@[simp] theorem State.setDt_haltReason (x : Byte) : (s.setDt x).haltReason = s.haltReason := rfl
@[simp] theorem State.setDt_stepReq (x : Byte) : (s.setDt x).stepReq = s.stepReq := rfl
@[simp] theorem State.setDt_build (x : Byte) : (s.setDt x).build = s.build := rfl
@[simp] theorem State.setDt_inputs (x : Byte) : (s.setDt x).inputs = s.inputs := rfl
@[simp] theorem State.setDt_rand (x : Byte) : (s.setDt x).rand = s.rand := rfl
@[simp] theorem State.setDt_randDrawn (x : Byte) : (s.setDt x).randDrawn = s.randDrawn := rfl
@[simp] theorem State.setDt_reports (x : Byte) : (s.setDt x).reports = s.reports := rfl
@[simp] theorem State.setDt_frames (x : Byte) : (s.setDt x).frames = s.frames := rfl

/-! ### setSt -/

@[simp] theorem State.setSt_mem (x : Byte) : (s.setSt x).mem = s.mem := rfl
@[simp] theorem State.setSt_v (x : Byte) : (s.setSt x).v = s.v := rfl
@[simp] theorem State.setSt_i (x : Byte) : (s.setSt x).i = s.i := rfl
@[simp] theorem State.setSt_pc (x : Byte) : (s.setSt x).pc = s.pc := rfl
@[simp] theorem State.setSt_stack (x : Byte) : (s.setSt x).stack = s.stack := rfl
@[simp] theorem State.setSt_sp (x : Byte) : (s.setSt x).sp = s.sp := rfl
@[simp] theorem State.setSt_dt (x : Byte) : (s.setSt x).dt = s.dt := rfl
@[simp] theorem State.setSt_st (x : Byte) : (s.setSt x).st = x := rfl
@[simp] theorem State.setSt_tone (x : Byte) : (s.setSt x).tone = s.tone := rfl
@[simp] theorem State.setSt_fb (x : Byte) : (s.setSt x).fb = s.fb := rfl
@[simp] theorem State.setSt_dirty (x : Byte) : (s.setSt x).dirty = s.dirty := rfl
@[simp] theorem State.setSt_keyCur (x : Byte) : (s.setSt x).keyCur = s.keyCur := rfl
@[simp] theorem State.setSt_keyPrev (x : Byte) : (s.setSt x).keyPrev = s.keyPrev := rfl
@[simp] theorem State.setSt_run (x : Byte) : (s.setSt x).run = s.run := rfl
@[simp] theorem State.setSt_haltReason (x : Byte) : (s.setSt x).haltReason = s.haltReason := rfl
@[simp] theorem State.setSt_stepReq (x : Byte) : (s.setSt x).stepReq = s.stepReq := rfl
@[simp] theorem State.setSt_build (x : Byte) : (s.setSt x).build = s.build := rfl
@[simp] theorem State.setSt_inputs (x : Byte) : (s.setSt x).inputs = s.inputs := rfl
@[simp] theorem State.setSt_rand (x : Byte) : (s.setSt x).rand = s.rand := rfl
@[simp] theorem State.setSt_randDrawn (x : Byte) : (s.setSt x).randDrawn = s.randDrawn := rfl
@[simp] theorem State.setSt_reports (x : Byte) : (s.setSt x).reports = s.reports := rfl
@[simp] theorem State.setSt_frames (x : Byte) : (s.setSt x).frames = s.frames := rfl

/-! ### show -/

@[simp] theorem State.show_mem (f : FrameBuffer) : (s.show f).mem = s.mem := rfl
@[simp] theorem State.show_v (f : FrameBuffer) : (s.show f).v = s.v := rfl
@[simp] theorem State.show_i (f : FrameBuffer) : (s.show f).i = s.i := rfl
@[simp] theorem State.show_pc (f : FrameBuffer) : (s.show f).pc = s.pc := rfl
@[simp] theorem State.show_stack (f : FrameBuffer) : (s.show f).stack = s.stack := rfl
@[simp] theorem State.show_sp (f : FrameBuffer) : (s.show f).sp = s.sp := rfl
@[simp] theorem State.show_dt (f : FrameBuffer) : (s.show f).dt = s.dt := rfl
@[simp] theorem State.show_st (f : FrameBuffer) : (s.show f).st = s.st := rfl
@[simp] theorem State.show_tone (f : FrameBuffer) : (s.show f).tone = s.tone := rfl
@[simp] theorem State.show_fb (f : FrameBuffer) : (s.show f).fb = f := rfl
@[simp] theorem State.show_dirty (f : FrameBuffer) : (s.show f).dirty = true := rfl
@[simp] theorem State.show_keyCur (f : FrameBuffer) : (s.show f).keyCur = s.keyCur := rfl
@[simp] theorem State.show_keyPrev (f : FrameBuffer) : (s.show f).keyPrev = s.keyPrev := rfl
@[simp] theorem State.show_run (f : FrameBuffer) : (s.show f).run = s.run := rfl
@[simp] theorem State.show_haltReason (f : FrameBuffer) : (s.show f).haltReason = s.haltReason := rfl
@[simp] theorem State.show_stepReq (f : FrameBuffer) : (s.show f).stepReq = s.stepReq := rfl
@[simp] theorem State.show_build (f : FrameBuffer) : (s.show f).build = s.build := rfl
@[simp] theorem State.show_inputs (f : FrameBuffer) : (s.show f).inputs = s.inputs := rfl
@[simp] theorem State.show_rand (f : FrameBuffer) : (s.show f).rand = s.rand := rfl
@[simp] theorem State.show_randDrawn (f : FrameBuffer) : (s.show f).randDrawn = s.randDrawn := rfl
@[simp] theorem State.show_reports (f : FrameBuffer) : (s.show f).reports = s.reports := rfl
@[simp] theorem State.show_frames (f : FrameBuffer) : (s.show f).frames = s.frames := rfl

/-! ### report -/

@[simp] theorem State.report_mem (c : Condition) (w : Word) : (s.report c w).mem = s.mem := rfl
@[simp] theorem State.report_v (c : Condition) (w : Word) : (s.report c w).v = s.v := rfl
@[simp] theorem State.report_i (c : Condition) (w : Word) : (s.report c w).i = s.i := rfl
@[simp] theorem State.report_pc (c : Condition) (w : Word) : (s.report c w).pc = s.pc := rfl
@[simp] theorem State.report_stack (c : Condition) (w : Word) : (s.report c w).stack = s.stack := rfl
@[simp] theorem State.report_sp (c : Condition) (w : Word) : (s.report c w).sp = s.sp := rfl
@[simp] theorem State.report_dt (c : Condition) (w : Word) : (s.report c w).dt = s.dt := rfl
@[simp] theorem State.report_st (c : Condition) (w : Word) : (s.report c w).st = s.st := rfl
@[simp] theorem State.report_tone (c : Condition) (w : Word) : (s.report c w).tone = s.tone := rfl
@[simp] theorem State.report_fb (c : Condition) (w : Word) : (s.report c w).fb = s.fb := rfl
@[simp] theorem State.report_dirty (c : Condition) (w : Word) : (s.report c w).dirty = s.dirty := rfl
@[simp] theorem State.report_keyCur (c : Condition) (w : Word) : (s.report c w).keyCur = s.keyCur := rfl
@[simp] theorem State.report_keyPrev (c : Condition) (w : Word) : (s.report c w).keyPrev = s.keyPrev := rfl
@[simp] theorem State.report_run (c : Condition) (w : Word) : (s.report c w).run = s.run := rfl
@[simp] theorem State.report_haltReason (c : Condition) (w : Word) : (s.report c w).haltReason = s.haltReason := rfl
@[simp] theorem State.report_stepReq (c : Condition) (w : Word) : (s.report c w).stepReq = s.stepReq := rfl
@[simp] theorem State.report_build (c : Condition) (w : Word) : (s.report c w).build = s.build := rfl
@[simp] theorem State.report_inputs (c : Condition) (w : Word) : (s.report c w).inputs = s.inputs := rfl
@[simp] theorem State.report_rand (c : Condition) (w : Word) : (s.report c w).rand = s.rand := rfl
@[simp] theorem State.report_randDrawn (c : Condition) (w : Word) : (s.report c w).randDrawn = s.randDrawn := rfl
@[simp] theorem State.report_reports (c : Condition) (w : Word) : (s.report c w).reports = s.reports ++ [⟨c, w⟩] := rfl
@[simp] theorem State.report_frames (c : Condition) (w : Word) : (s.report c w).frames = s.frames := rfl

/-! ### raise -/

@[simp] theorem State.raise_mem (c : Condition) (w : Word) : (s.raise c w).mem = s.mem := rfl
@[simp] theorem State.raise_v (c : Condition) (w : Word) : (s.raise c w).v = s.v := rfl
@[simp] theorem State.raise_i (c : Condition) (w : Word) : (s.raise c w).i = s.i := rfl
@[simp] theorem State.raise_pc (c : Condition) (w : Word) : (s.raise c w).pc = s.pc := rfl
@[simp] theorem State.raise_stack (c : Condition) (w : Word) : (s.raise c w).stack = s.stack := rfl
@[simp] theorem State.raise_sp (c : Condition) (w : Word) : (s.raise c w).sp = s.sp := rfl
@[simp] theorem State.raise_dt (c : Condition) (w : Word) : (s.raise c w).dt = s.dt := rfl
@[simp] theorem State.raise_st (c : Condition) (w : Word) : (s.raise c w).st = s.st := rfl
@[simp] theorem State.raise_tone (c : Condition) (w : Word) : (s.raise c w).tone = s.tone := rfl
@[simp] theorem State.raise_fb (c : Condition) (w : Word) : (s.raise c w).fb = s.fb := rfl
@[simp] theorem State.raise_dirty (c : Condition) (w : Word) : (s.raise c w).dirty = s.dirty := rfl
@[simp] theorem State.raise_keyCur (c : Condition) (w : Word) : (s.raise c w).keyCur = s.keyCur := rfl
@[simp] theorem State.raise_keyPrev (c : Condition) (w : Word) : (s.raise c w).keyPrev = s.keyPrev := rfl
@[simp] theorem State.raise_run (c : Condition) (w : Word) : (s.raise c w).run = .halted := rfl
@[simp] theorem State.raise_haltReason (c : Condition) (w : Word) : (s.raise c w).haltReason = some c := rfl
@[simp] theorem State.raise_stepReq (c : Condition) (w : Word) : (s.raise c w).stepReq = s.stepReq := rfl
@[simp] theorem State.raise_build (c : Condition) (w : Word) : (s.raise c w).build = s.build := rfl
@[simp] theorem State.raise_inputs (c : Condition) (w : Word) : (s.raise c w).inputs = s.inputs := rfl
@[simp] theorem State.raise_rand (c : Condition) (w : Word) : (s.raise c w).rand = s.rand := rfl
@[simp] theorem State.raise_randDrawn (c : Condition) (w : Word) : (s.raise c w).randDrawn = s.randDrawn := rfl
@[simp] theorem State.raise_reports (c : Condition) (w : Word) : (s.raise c w).reports = s.reports ++ [⟨c, w⟩] := rfl
@[simp] theorem State.raise_frames (c : Condition) (w : Word) : (s.raise c w).frames = s.frames := rfl

/-! ### skipIf -/

@[simp] theorem State.skipIf_mem (c : Bool) : (s.skipIf c).mem = s.mem := by
  cases c <;> rfl
@[simp] theorem State.skipIf_v (c : Bool) : (s.skipIf c).v = s.v := by
  cases c <;> rfl
@[simp] theorem State.skipIf_i (c : Bool) : (s.skipIf c).i = s.i := by
  cases c <;> rfl
@[simp] theorem State.skipIf_pc (c : Bool) : (s.skipIf c).pc = if c then s.pc + 2 else s.pc := by
  cases c <;> rfl
@[simp] theorem State.skipIf_stack (c : Bool) : (s.skipIf c).stack = s.stack := by
  cases c <;> rfl
@[simp] theorem State.skipIf_sp (c : Bool) : (s.skipIf c).sp = s.sp := by
  cases c <;> rfl
@[simp] theorem State.skipIf_dt (c : Bool) : (s.skipIf c).dt = s.dt := by
  cases c <;> rfl
@[simp] theorem State.skipIf_st (c : Bool) : (s.skipIf c).st = s.st := by
  cases c <;> rfl
@[simp] theorem State.skipIf_tone (c : Bool) : (s.skipIf c).tone = s.tone := by
  cases c <;> rfl
@[simp] theorem State.skipIf_fb (c : Bool) : (s.skipIf c).fb = s.fb := by
  cases c <;> rfl
@[simp] theorem State.skipIf_dirty (c : Bool) : (s.skipIf c).dirty = s.dirty := by
  cases c <;> rfl
@[simp] theorem State.skipIf_keyCur (c : Bool) : (s.skipIf c).keyCur = s.keyCur := by
  cases c <;> rfl
@[simp] theorem State.skipIf_keyPrev (c : Bool) : (s.skipIf c).keyPrev = s.keyPrev := by
  cases c <;> rfl
@[simp] theorem State.skipIf_run (c : Bool) : (s.skipIf c).run = s.run := by
  cases c <;> rfl
@[simp] theorem State.skipIf_haltReason (c : Bool) : (s.skipIf c).haltReason = s.haltReason := by
  cases c <;> rfl
@[simp] theorem State.skipIf_stepReq (c : Bool) : (s.skipIf c).stepReq = s.stepReq := by
  cases c <;> rfl
@[simp] theorem State.skipIf_build (c : Bool) : (s.skipIf c).build = s.build := by
  cases c <;> rfl
@[simp] theorem State.skipIf_inputs (c : Bool) : (s.skipIf c).inputs = s.inputs := by
  cases c <;> rfl
@[simp] theorem State.skipIf_rand (c : Bool) : (s.skipIf c).rand = s.rand := by
  cases c <;> rfl
@[simp] theorem State.skipIf_randDrawn (c : Bool) : (s.skipIf c).randDrawn = s.randDrawn := by
  cases c <;> rfl
@[simp] theorem State.skipIf_reports (c : Bool) : (s.skipIf c).reports = s.reports := by
  cases c <;> rfl
@[simp] theorem State.skipIf_frames (c : Bool) : (s.skipIf c).frames = s.frames := by
  cases c <;> rfl

/-! ### advanceIndex -/

@[simp] theorem State.advanceIndex_mem (n : Nat) : (s.advanceIndex n).mem = s.mem := by
  unfold State.advanceIndex; split <;> rfl
@[simp] theorem State.advanceIndex_v (n : Nat) : (s.advanceIndex n).v = s.v := by
  unfold State.advanceIndex; split <;> rfl
@[simp] theorem State.advanceIndex_i (n : Nat) : (s.advanceIndex n).i = if s.inputs.advanceI then s.i + BitVec.ofNat 16 n else s.i := by
  unfold State.advanceIndex; split <;> rfl
@[simp] theorem State.advanceIndex_pc (n : Nat) : (s.advanceIndex n).pc = s.pc := by
  unfold State.advanceIndex; split <;> rfl
@[simp] theorem State.advanceIndex_stack (n : Nat) : (s.advanceIndex n).stack = s.stack := by
  unfold State.advanceIndex; split <;> rfl
@[simp] theorem State.advanceIndex_sp (n : Nat) : (s.advanceIndex n).sp = s.sp := by
  unfold State.advanceIndex; split <;> rfl
@[simp] theorem State.advanceIndex_dt (n : Nat) : (s.advanceIndex n).dt = s.dt := by
  unfold State.advanceIndex; split <;> rfl
@[simp] theorem State.advanceIndex_st (n : Nat) : (s.advanceIndex n).st = s.st := by
  unfold State.advanceIndex; split <;> rfl
@[simp] theorem State.advanceIndex_tone (n : Nat) : (s.advanceIndex n).tone = s.tone := by
  unfold State.advanceIndex; split <;> rfl
@[simp] theorem State.advanceIndex_fb (n : Nat) : (s.advanceIndex n).fb = s.fb := by
  unfold State.advanceIndex; split <;> rfl
@[simp] theorem State.advanceIndex_dirty (n : Nat) : (s.advanceIndex n).dirty = s.dirty := by
  unfold State.advanceIndex; split <;> rfl
@[simp] theorem State.advanceIndex_keyCur (n : Nat) : (s.advanceIndex n).keyCur = s.keyCur := by
  unfold State.advanceIndex; split <;> rfl
@[simp] theorem State.advanceIndex_keyPrev (n : Nat) : (s.advanceIndex n).keyPrev = s.keyPrev := by
  unfold State.advanceIndex; split <;> rfl
@[simp] theorem State.advanceIndex_run (n : Nat) : (s.advanceIndex n).run = s.run := by
  unfold State.advanceIndex; split <;> rfl
@[simp] theorem State.advanceIndex_haltReason (n : Nat) : (s.advanceIndex n).haltReason = s.haltReason := by
  unfold State.advanceIndex; split <;> rfl
@[simp] theorem State.advanceIndex_stepReq (n : Nat) : (s.advanceIndex n).stepReq = s.stepReq := by
  unfold State.advanceIndex; split <;> rfl
@[simp] theorem State.advanceIndex_build (n : Nat) : (s.advanceIndex n).build = s.build := by
  unfold State.advanceIndex; split <;> rfl
@[simp] theorem State.advanceIndex_inputs (n : Nat) : (s.advanceIndex n).inputs = s.inputs := by
  unfold State.advanceIndex; split <;> rfl
@[simp] theorem State.advanceIndex_rand (n : Nat) : (s.advanceIndex n).rand = s.rand := by
  unfold State.advanceIndex; split <;> rfl
@[simp] theorem State.advanceIndex_randDrawn (n : Nat) : (s.advanceIndex n).randDrawn = s.randDrawn := by
  unfold State.advanceIndex; split <;> rfl
@[simp] theorem State.advanceIndex_reports (n : Nat) : (s.advanceIndex n).reports = s.reports := by
  unfold State.advanceIndex; split <;> rfl
@[simp] theorem State.advanceIndex_frames (n : Nat) : (s.advanceIndex n).frames = s.frames := by
  unfold State.advanceIndex; split <;> rfl

/-! ### takeRequest -/

@[simp] theorem State.takeRequest_mem : (s.takeRequest).mem = s.mem := by
  unfold State.takeRequest; split <;> rfl
@[simp] theorem State.takeRequest_v : (s.takeRequest).v = s.v := by
  unfold State.takeRequest; split <;> rfl
@[simp] theorem State.takeRequest_i : (s.takeRequest).i = s.i := by
  unfold State.takeRequest; split <;> rfl
@[simp] theorem State.takeRequest_pc : (s.takeRequest).pc = s.pc := by
  unfold State.takeRequest; split <;> rfl
@[simp] theorem State.takeRequest_stack : (s.takeRequest).stack = s.stack := by
  unfold State.takeRequest; split <;> rfl
@[simp] theorem State.takeRequest_sp : (s.takeRequest).sp = s.sp := by
  unfold State.takeRequest; split <;> rfl
@[simp] theorem State.takeRequest_dt : (s.takeRequest).dt = s.dt := by
  unfold State.takeRequest; split <;> rfl
@[simp] theorem State.takeRequest_st : (s.takeRequest).st = s.st := by
  unfold State.takeRequest; split <;> rfl
@[simp] theorem State.takeRequest_tone : (s.takeRequest).tone = s.tone := by
  unfold State.takeRequest; split <;> rfl
@[simp] theorem State.takeRequest_fb : (s.takeRequest).fb = s.fb := by
  unfold State.takeRequest; split <;> rfl
@[simp] theorem State.takeRequest_dirty : (s.takeRequest).dirty = s.dirty := by
  unfold State.takeRequest; split <;> rfl
@[simp] theorem State.takeRequest_keyCur : (s.takeRequest).keyCur = s.keyCur := by
  unfold State.takeRequest; split <;> rfl
@[simp] theorem State.takeRequest_keyPrev : (s.takeRequest).keyPrev = s.keyPrev := by
  unfold State.takeRequest; split <;> rfl
@[simp] theorem State.takeRequest_run : (s.takeRequest).run = s.run := by
  unfold State.takeRequest; split <;> rfl
@[simp] theorem State.takeRequest_haltReason : (s.takeRequest).haltReason = s.haltReason := by
  unfold State.takeRequest; split <;> rfl
@[simp] theorem State.takeRequest_stepReq : (s.takeRequest).stepReq = if s.inputs.stepMode then false else s.stepReq := by
  unfold State.takeRequest; split <;> rfl
@[simp] theorem State.takeRequest_build : (s.takeRequest).build = s.build := by
  unfold State.takeRequest; split <;> rfl
@[simp] theorem State.takeRequest_inputs : (s.takeRequest).inputs = s.inputs := by
  unfold State.takeRequest; split <;> rfl
@[simp] theorem State.takeRequest_rand : (s.takeRequest).rand = s.rand := by
  unfold State.takeRequest; split <;> rfl
@[simp] theorem State.takeRequest_randDrawn : (s.takeRequest).randDrawn = s.randDrawn := by
  unfold State.takeRequest; split <;> rfl
@[simp] theorem State.takeRequest_reports : (s.takeRequest).reports = s.reports := by
  unfold State.takeRequest; split <;> rfl
@[simp] theorem State.takeRequest_frames : (s.takeRequest).frames = s.frames := by
  unfold State.takeRequest; split <;> rfl

/-! ### consumeRand -/

@[simp] theorem State.consumeRand_mem : (s.consumeRand).mem = s.mem := by
  unfold State.consumeRand; split <;> rfl
@[simp] theorem State.consumeRand_v : (s.consumeRand).v = s.v := by
  unfold State.consumeRand; split <;> rfl
@[simp] theorem State.consumeRand_i : (s.consumeRand).i = s.i := by
  unfold State.consumeRand; split <;> rfl
@[simp] theorem State.consumeRand_pc : (s.consumeRand).pc = s.pc := by
  unfold State.consumeRand; split <;> rfl
@[simp] theorem State.consumeRand_stack : (s.consumeRand).stack = s.stack := by
  unfold State.consumeRand; split <;> rfl
@[simp] theorem State.consumeRand_sp : (s.consumeRand).sp = s.sp := by
  unfold State.consumeRand; split <;> rfl
@[simp] theorem State.consumeRand_dt : (s.consumeRand).dt = s.dt := by
  unfold State.consumeRand; split <;> rfl
@[simp] theorem State.consumeRand_st : (s.consumeRand).st = s.st := by
  unfold State.consumeRand; split <;> rfl
@[simp] theorem State.consumeRand_tone : (s.consumeRand).tone = s.tone := by
  unfold State.consumeRand; split <;> rfl
@[simp] theorem State.consumeRand_fb : (s.consumeRand).fb = s.fb := by
  unfold State.consumeRand; split <;> rfl
@[simp] theorem State.consumeRand_dirty : (s.consumeRand).dirty = s.dirty := by
  unfold State.consumeRand; split <;> rfl
@[simp] theorem State.consumeRand_keyCur : (s.consumeRand).keyCur = s.keyCur := by
  unfold State.consumeRand; split <;> rfl
@[simp] theorem State.consumeRand_keyPrev : (s.consumeRand).keyPrev = s.keyPrev := by
  unfold State.consumeRand; split <;> rfl
@[simp] theorem State.consumeRand_run : (s.consumeRand).run = s.run := by
  unfold State.consumeRand; split <;> rfl
@[simp] theorem State.consumeRand_haltReason : (s.consumeRand).haltReason = s.haltReason := by
  unfold State.consumeRand; split <;> rfl
@[simp] theorem State.consumeRand_stepReq : (s.consumeRand).stepReq = s.stepReq := by
  unfold State.consumeRand; split <;> rfl
@[simp] theorem State.consumeRand_build : (s.consumeRand).build = s.build := by
  unfold State.consumeRand; split <;> rfl
@[simp] theorem State.consumeRand_inputs : (s.consumeRand).inputs = s.inputs := by
  unfold State.consumeRand; split <;> rfl
@[simp] theorem State.consumeRand_reports : (s.consumeRand).reports = s.reports := by
  unfold State.consumeRand; split <;> rfl
@[simp] theorem State.consumeRand_frames : (s.consumeRand).frames = s.frames := by
  unfold State.consumeRand; split <;> rfl

/-! ### dumpRegs -/

@[simp] theorem State.dumpRegs_v (n : Nat) : (s.dumpRegs n).v = s.v := by
  induction n <;> simp [State.dumpRegs, *]
@[simp] theorem State.dumpRegs_i (n : Nat) : (s.dumpRegs n).i = s.i := by
  induction n <;> simp [State.dumpRegs, *]
@[simp] theorem State.dumpRegs_pc (n : Nat) : (s.dumpRegs n).pc = s.pc := by
  induction n <;> simp [State.dumpRegs, *]
@[simp] theorem State.dumpRegs_stack (n : Nat) : (s.dumpRegs n).stack = s.stack := by
  induction n <;> simp [State.dumpRegs, *]
@[simp] theorem State.dumpRegs_sp (n : Nat) : (s.dumpRegs n).sp = s.sp := by
  induction n <;> simp [State.dumpRegs, *]
@[simp] theorem State.dumpRegs_dt (n : Nat) : (s.dumpRegs n).dt = s.dt := by
  induction n <;> simp [State.dumpRegs, *]
@[simp] theorem State.dumpRegs_st (n : Nat) : (s.dumpRegs n).st = s.st := by
  induction n <;> simp [State.dumpRegs, *]
@[simp] theorem State.dumpRegs_tone (n : Nat) : (s.dumpRegs n).tone = s.tone := by
  induction n <;> simp [State.dumpRegs, *]
@[simp] theorem State.dumpRegs_fb (n : Nat) : (s.dumpRegs n).fb = s.fb := by
  induction n <;> simp [State.dumpRegs, *]
@[simp] theorem State.dumpRegs_dirty (n : Nat) : (s.dumpRegs n).dirty = s.dirty := by
  induction n <;> simp [State.dumpRegs, *]
@[simp] theorem State.dumpRegs_keyCur (n : Nat) : (s.dumpRegs n).keyCur = s.keyCur := by
  induction n <;> simp [State.dumpRegs, *]
@[simp] theorem State.dumpRegs_keyPrev (n : Nat) : (s.dumpRegs n).keyPrev = s.keyPrev := by
  induction n <;> simp [State.dumpRegs, *]
@[simp] theorem State.dumpRegs_run (n : Nat) : (s.dumpRegs n).run = s.run := by
  induction n <;> simp [State.dumpRegs, *]
@[simp] theorem State.dumpRegs_haltReason (n : Nat) : (s.dumpRegs n).haltReason = s.haltReason := by
  induction n <;> simp [State.dumpRegs, *]
@[simp] theorem State.dumpRegs_stepReq (n : Nat) : (s.dumpRegs n).stepReq = s.stepReq := by
  induction n <;> simp [State.dumpRegs, *]
@[simp] theorem State.dumpRegs_build (n : Nat) : (s.dumpRegs n).build = s.build := by
  induction n <;> simp [State.dumpRegs, *]
@[simp] theorem State.dumpRegs_inputs (n : Nat) : (s.dumpRegs n).inputs = s.inputs := by
  induction n <;> simp [State.dumpRegs, *]
@[simp] theorem State.dumpRegs_rand (n : Nat) : (s.dumpRegs n).rand = s.rand := by
  induction n <;> simp [State.dumpRegs, *]
@[simp] theorem State.dumpRegs_randDrawn (n : Nat) : (s.dumpRegs n).randDrawn = s.randDrawn := by
  induction n <;> simp [State.dumpRegs, *]
@[simp] theorem State.dumpRegs_reports (n : Nat) : (s.dumpRegs n).reports = s.reports := by
  induction n <;> simp [State.dumpRegs, *]
@[simp] theorem State.dumpRegs_frames (n : Nat) : (s.dumpRegs n).frames = s.frames := by
  induction n <;> simp [State.dumpRegs, *]

/-! ### loadRegs -/

@[simp] theorem State.loadRegs_mem (n : Nat) : (s.loadRegs n).mem = s.mem := by
  induction n <;> simp [State.loadRegs, *]
@[simp] theorem State.loadRegs_i (n : Nat) : (s.loadRegs n).i = s.i := by
  induction n <;> simp [State.loadRegs, *]
@[simp] theorem State.loadRegs_pc (n : Nat) : (s.loadRegs n).pc = s.pc := by
  induction n <;> simp [State.loadRegs, *]
@[simp] theorem State.loadRegs_stack (n : Nat) : (s.loadRegs n).stack = s.stack := by
  induction n <;> simp [State.loadRegs, *]
@[simp] theorem State.loadRegs_sp (n : Nat) : (s.loadRegs n).sp = s.sp := by
  induction n <;> simp [State.loadRegs, *]
@[simp] theorem State.loadRegs_dt (n : Nat) : (s.loadRegs n).dt = s.dt := by
  induction n <;> simp [State.loadRegs, *]
@[simp] theorem State.loadRegs_st (n : Nat) : (s.loadRegs n).st = s.st := by
  induction n <;> simp [State.loadRegs, *]
@[simp] theorem State.loadRegs_tone (n : Nat) : (s.loadRegs n).tone = s.tone := by
  induction n <;> simp [State.loadRegs, *]
@[simp] theorem State.loadRegs_fb (n : Nat) : (s.loadRegs n).fb = s.fb := by
  induction n <;> simp [State.loadRegs, *]
@[simp] theorem State.loadRegs_dirty (n : Nat) : (s.loadRegs n).dirty = s.dirty := by
  induction n <;> simp [State.loadRegs, *]
@[simp] theorem State.loadRegs_keyCur (n : Nat) : (s.loadRegs n).keyCur = s.keyCur := by
  induction n <;> simp [State.loadRegs, *]
@[simp] theorem State.loadRegs_keyPrev (n : Nat) : (s.loadRegs n).keyPrev = s.keyPrev := by
  induction n <;> simp [State.loadRegs, *]
@[simp] theorem State.loadRegs_run (n : Nat) : (s.loadRegs n).run = s.run := by
  induction n <;> simp [State.loadRegs, *]
@[simp] theorem State.loadRegs_haltReason (n : Nat) : (s.loadRegs n).haltReason = s.haltReason := by
  induction n <;> simp [State.loadRegs, *]
@[simp] theorem State.loadRegs_stepReq (n : Nat) : (s.loadRegs n).stepReq = s.stepReq := by
  induction n <;> simp [State.loadRegs, *]
@[simp] theorem State.loadRegs_build (n : Nat) : (s.loadRegs n).build = s.build := by
  induction n <;> simp [State.loadRegs, *]
@[simp] theorem State.loadRegs_inputs (n : Nat) : (s.loadRegs n).inputs = s.inputs := by
  induction n <;> simp [State.loadRegs, *]
@[simp] theorem State.loadRegs_rand (n : Nat) : (s.loadRegs n).rand = s.rand := by
  induction n <;> simp [State.loadRegs, *]
@[simp] theorem State.loadRegs_randDrawn (n : Nat) : (s.loadRegs n).randDrawn = s.randDrawn := by
  induction n <;> simp [State.loadRegs, *]
@[simp] theorem State.loadRegs_reports (n : Nat) : (s.loadRegs n).reports = s.reports := by
  induction n <;> simp [State.loadRegs, *]
@[simp] theorem State.loadRegs_frames (n : Nat) : (s.loadRegs n).frames = s.frames := by
  induction n <;> simp [State.loadRegs, *]

/-! ### Readers -/

@[simp] theorem State.storeByte_reg (a : Addr) (x : Byte) (r' : Reg) : (s.storeByte a x).reg r' = s.reg r' := rfl
@[simp] theorem State.setI_reg (w : Word) (r' : Reg) : (s.setI w).reg r' = s.reg r' := rfl
@[simp] theorem State.setPc_reg (w : Word) (r' : Reg) : (s.setPc w).reg r' = s.reg r' := rfl
@[simp] theorem State.advance_reg (r' : Reg) : (s.advance).reg r' = s.reg r' := rfl
@[simp] theorem State.setDt_reg (x : Byte) (r' : Reg) : (s.setDt x).reg r' = s.reg r' := rfl
@[simp] theorem State.setSt_reg (x : Byte) (r' : Reg) : (s.setSt x).reg r' = s.reg r' := rfl
@[simp] theorem State.show_reg (f : FrameBuffer) (r' : Reg) : (s.show f).reg r' = s.reg r' := rfl
@[simp] theorem State.report_reg (c : Condition) (w : Word) (r' : Reg) : (s.report c w).reg r' = s.reg r' := rfl
@[simp] theorem State.raise_reg (c : Condition) (w : Word) (r' : Reg) : (s.raise c w).reg r' = s.reg r' := rfl
@[simp] theorem State.skipIf_reg (c : Bool) (r' : Reg) : (s.skipIf c).reg r' = s.reg r' := by
  cases c <;> rfl
@[simp] theorem State.advanceIndex_reg (n : Nat) (r' : Reg) : (s.advanceIndex n).reg r' = s.reg r' := by
  unfold State.advanceIndex; split <;> rfl
@[simp] theorem State.takeRequest_reg (r' : Reg) : (s.takeRequest).reg r' = s.reg r' := by
  unfold State.takeRequest; split <;> rfl
@[simp] theorem State.consumeRand_reg (r' : Reg) : (s.consumeRand).reg r' = s.reg r' := by
  unfold State.consumeRand; split <;> rfl
@[simp] theorem State.setReg_loadByte (r : Reg) (x : Byte) (a' : Addr) : (s.setReg r x).loadByte a' = s.loadByte a' := rfl
@[simp] theorem State.setI_loadByte (w : Word) (a' : Addr) : (s.setI w).loadByte a' = s.loadByte a' := rfl
@[simp] theorem State.setPc_loadByte (w : Word) (a' : Addr) : (s.setPc w).loadByte a' = s.loadByte a' := rfl
@[simp] theorem State.advance_loadByte (a' : Addr) : (s.advance).loadByte a' = s.loadByte a' := rfl
@[simp] theorem State.setDt_loadByte (x : Byte) (a' : Addr) : (s.setDt x).loadByte a' = s.loadByte a' := rfl
@[simp] theorem State.setSt_loadByte (x : Byte) (a' : Addr) : (s.setSt x).loadByte a' = s.loadByte a' := rfl
@[simp] theorem State.show_loadByte (f : FrameBuffer) (a' : Addr) : (s.show f).loadByte a' = s.loadByte a' := rfl
@[simp] theorem State.report_loadByte (c : Condition) (w : Word) (a' : Addr) : (s.report c w).loadByte a' = s.loadByte a' := rfl
@[simp] theorem State.raise_loadByte (c : Condition) (w : Word) (a' : Addr) : (s.raise c w).loadByte a' = s.loadByte a' := rfl
@[simp] theorem State.skipIf_loadByte (c : Bool) (a' : Addr) : (s.skipIf c).loadByte a' = s.loadByte a' := by
  cases c <;> rfl
@[simp] theorem State.advanceIndex_loadByte (n : Nat) (a' : Addr) : (s.advanceIndex n).loadByte a' = s.loadByte a' := by
  unfold State.advanceIndex; split <;> rfl
@[simp] theorem State.takeRequest_loadByte (a' : Addr) : (s.takeRequest).loadByte a' = s.loadByte a' := by
  unfold State.takeRequest; split <;> rfl
@[simp] theorem State.consumeRand_loadByte (a' : Addr) : (s.consumeRand).loadByte a' = s.loadByte a' := by
  unfold State.consumeRand; split <;> rfl
@[simp] theorem State.storeByte_ea (a : Addr) (x : Byte) (k' : Nat) : (s.storeByte a x).ea k' = s.ea k' := rfl
@[simp] theorem State.setReg_ea (r : Reg) (x : Byte) (k' : Nat) : (s.setReg r x).ea k' = s.ea k' := rfl
@[simp] theorem State.setPc_ea (w : Word) (k' : Nat) : (s.setPc w).ea k' = s.ea k' := rfl
@[simp] theorem State.advance_ea (k' : Nat) : (s.advance).ea k' = s.ea k' := rfl
@[simp] theorem State.setDt_ea (x : Byte) (k' : Nat) : (s.setDt x).ea k' = s.ea k' := rfl
@[simp] theorem State.setSt_ea (x : Byte) (k' : Nat) : (s.setSt x).ea k' = s.ea k' := rfl
@[simp] theorem State.show_ea (f : FrameBuffer) (k' : Nat) : (s.show f).ea k' = s.ea k' := rfl
@[simp] theorem State.report_ea (c : Condition) (w : Word) (k' : Nat) : (s.report c w).ea k' = s.ea k' := rfl
@[simp] theorem State.raise_ea (c : Condition) (w : Word) (k' : Nat) : (s.raise c w).ea k' = s.ea k' := rfl
@[simp] theorem State.skipIf_ea (c : Bool) (k' : Nat) : (s.skipIf c).ea k' = s.ea k' := by
  cases c <;> rfl
@[simp] theorem State.takeRequest_ea (k' : Nat) : (s.takeRequest).ea k' = s.ea k' := by
  unfold State.takeRequest; split <;> rfl
@[simp] theorem State.consumeRand_ea (k' : Nat) : (s.consumeRand).ea k' = s.ea k' := by
  unfold State.consumeRand; split <;> rfl

/-- A written register reads as written; every other one as before. -/
@[simp] theorem State.setReg_reg (r r' : Reg) (x : Byte) :
    (s.setReg r x).reg r' = if r = r' then x else s.reg r' := by
  simp only [State.reg, State.setReg_v, Vector.getElem_set, Fin.ext_iff]

@[simp] theorem State.setI_ea (w : Word) (k : Nat) :
    (s.setI w).ea k = BitVec.ofNat 12 (w.toNat + k) := rfl

end Sys2Proof.Machine
end

