-- ==== Sys2Proof/Laws/Memory.lean ====
section
/-! SUPPORT. The laws of memory: a byte written reads back, every other byte is as before, and every
memory operation keeps the canonical form (spec/20_memory.md R52, R53; spec/10_state.md R40). -/

namespace Sys2Proof.Machine

variable (b : Build)

/-! ### Reading after writing -/

theorem Memory.read_erase_same (m : Memory) (a : Nat) :
    Memory.read b (Memory.erase m a) a = resetByte b a := by
  induction m with
  | nil => rfl
  | cons c m ih =>
    by_cases h : c.1 = a
    · simpa [Memory.erase, h] using ih
    · simpa [Memory.erase, Memory.read, h] using ih

theorem Memory.read_erase_other (m : Memory) (a a' : Nat) (h : a' ≠ a) :
    Memory.read b (Memory.erase m a) a' = Memory.read b m a' := by
  induction m with
  | nil => rfl
  | cons c m ih =>
    by_cases hc : c.1 = a
    · simpa [Memory.erase, Memory.read, hc, h.symm] using ih
    · by_cases ha : c.1 = a'
      · simp [Memory.erase, Memory.read, ha, h]
      · simpa [Memory.erase, Memory.read, hc, ha] using ih

theorem Memory.read_insert_same (m : Memory) (a : Nat) (x : Byte) (h : ∀ c ∈ m, c.1 ≠ a) :
    Memory.read b (Memory.insert a x m) a = x := by
  induction m with
  | nil => simp [Memory.insert, Memory.read]
  | cons c m ih =>
    have hc : c.1 ≠ a := h c (by simp)
    by_cases hlt : a < c.1
    · simp [Memory.insert, Memory.read, hlt]
    · simpa [Memory.insert, Memory.read, hlt, hc] using ih fun d hd => h d (by simp [hd])

theorem Memory.read_insert_other (m : Memory) (a a' : Nat) (x : Byte) (h : a' ≠ a) :
    Memory.read b (Memory.insert a x m) a' = Memory.read b m a' := by
  induction m with
  | nil => simp [Memory.insert, Memory.read, h.symm]
  | cons c m ih =>
    by_cases hlt : a < c.1
    · simp [Memory.insert, Memory.read, hlt, h.symm]
    · rw [Memory.insert, if_neg hlt, Memory.read, Memory.read, ih]

theorem Memory.mem_erase_ne (m : Memory) (a : Nat) : ∀ c ∈ Memory.erase m a, c.1 ≠ a := by
  intro c hc
  simpa using (List.mem_filter.mp hc).2

/-- A byte written reads back (R52, R53), in every memory, canonical or not. -/
@[simp] theorem Memory.read_write_same (m : Memory) (a : Nat) (x : Byte) :
    Memory.read b (Memory.write b m a x) a = x := by
  unfold Memory.write
  split
  · rename_i h; rw [Memory.read_erase_same, h]
  · exact Memory.read_insert_same b _ a x (Memory.mem_erase_ne m a)

/-- A write leaves every other byte alone. -/
theorem Memory.read_write_other (m : Memory) (a a' : Nat) (x : Byte) (h : a' ≠ a) :
    Memory.read b (Memory.write b m a x) a' = Memory.read b m a' := by
  unfold Memory.write
  split
  · exact Memory.read_erase_other b m a a' h
  · rw [Memory.read_insert_other b _ a a' x h, Memory.read_erase_other b m a a' h]

theorem Memory.read_write (m : Memory) (a a' : Nat) (x : Byte) :
    Memory.read b (Memory.write b m a x) a' = if a' = a then x else Memory.read b m a' := by
  split
  · rename_i h; rw [h, Memory.read_write_same]
  · rename_i h; exact Memory.read_write_other b m a a' x h

/-- What a block of bytes written from `a` up reads as. -/
theorem Memory.read_writeBytes (xs : List Byte) (m : Memory) (a a' : Nat) :
    Memory.read b (Memory.writeBytes b xs a m) a' =
      if h : a ≤ a' ∧ a' < a + xs.length then xs[a' - a]'(by omega) else Memory.read b m a' := by
  induction xs generalizing m a with
  | nil => simp [Memory.writeBytes, show ¬(a ≤ a' ∧ a' < a) by omega]
  | cons x xs ih =>
    rw [Memory.writeBytes, ih, Memory.read_write]
    by_cases h0 : a' = a
    · simp [h0]
    · by_cases h1 : a ≤ a' ∧ a' < a + (xs.length + 1)
      · have h2 : a + 1 ≤ a' ∧ a' < a + 1 + xs.length := by omega
        have h3 : a' - a = (a' - (a + 1)) + 1 := by omega
        simp only [List.length_cons, h1, h2, h3, dif_pos, and_self, List.getElem_cons_succ]
      · have h2 : ¬(a + 1 ≤ a' ∧ a' < a + 1 + xs.length) := by omega
        simp only [List.length_cons, h1, h2, h0, dif_neg, if_false, not_false_eq_true]

/-! ### The canonical form is kept -/

/-- The canonical form, cell by cell. -/
theorem Memory.wf_cons (c : Host.Cell) (m : Memory) :
    Memory.wf b (c :: m) = true ↔
      c.1 < memSize ∧ c.2 ≠ resetByte b c.1 ∧ (∀ d ∈ m, c.1 < d.1) ∧ Memory.wf b m = true := by
  simp [Memory.wf, and_assoc]

theorem Memory.wf_erase (m : Memory) (a : Nat) (h : Memory.wf b m = true) :
    Memory.wf b (Memory.erase m a) = true := by
  induction m with
  | nil => rfl
  | cons c m ih =>
    obtain ⟨h1, h2, h3, h4⟩ := (Memory.wf_cons b c m).mp h
    have hrest := ih h4
    by_cases hc : c.1 = a
    · simpa [Memory.erase, hc] using hrest
    · have : Memory.erase (c :: m) a = c :: Memory.erase m a := by simp [Memory.erase, hc]
      rw [this]
      exact (Memory.wf_cons b c _).mpr ⟨h1, h2, fun d hd => h3 d (List.mem_filter.mp hd).1, hrest⟩

theorem Memory.mem_insert (m : Memory) (a : Nat) (x : Byte) (d : Host.Cell) :
    d ∈ Memory.insert a x m ↔ d = (a, x) ∨ d ∈ m := by
  induction m with
  | nil => simp [Memory.insert]
  | cons c m ih =>
    by_cases h : a < c.1
    · simp [Memory.insert, h]
    · simp [Memory.insert, h, ih, or_left_comm]

theorem Memory.wf_insert (m : Memory) (a : Nat) (x : Byte) (h : Memory.wf b m = true)
    (ha : a < memSize) (hx : x ≠ resetByte b a) (hn : ∀ c ∈ m, c.1 ≠ a) :
    Memory.wf b (Memory.insert a x m) = true := by
  induction m with
  | nil => exact (Memory.wf_cons b (a, x) []).mpr ⟨ha, hx, by simp, rfl⟩
  | cons c m ih =>
    obtain ⟨h1, h2, h3, h4⟩ := (Memory.wf_cons b c m).mp h
    by_cases hlt : a < c.1
    · rw [Memory.insert, if_pos hlt]
      refine (Memory.wf_cons b _ _).mpr ⟨ha, hx, ?_, h⟩
      intro d hd
      rcases List.mem_cons.mp hd with rfl | hd
      · exact hlt
      · exact lt_trans hlt (h3 d hd)
    · rw [Memory.insert, if_neg hlt]
      refine (Memory.wf_cons b c _).mpr ⟨h1, h2, ?_, ih h4 fun d hd => hn d (by simp [hd])⟩
      intro d hd
      rcases (Memory.mem_insert m a x d).mp hd with rfl | hd
      · have := hn c (by simp); simp only; omega
      · exact h3 d hd

/-- A write below 4096 keeps the canonical form. -/
theorem Memory.wf_write (m : Memory) (a : Nat) (x : Byte) (h : Memory.wf b m = true)
    (ha : a < memSize) : Memory.wf b (Memory.write b m a x) = true := by
  unfold Memory.write
  split
  · exact Memory.wf_erase b m a h
  · rename_i hx
    exact Memory.wf_insert b _ a x (Memory.wf_erase b m a h) ha hx (Memory.mem_erase_ne m a)

/-- A block of bytes that fits below 4096 keeps the canonical form. -/
theorem Memory.wf_writeBytes (xs : List Byte) (m : Memory) (a : Nat) (h : Memory.wf b m = true)
    (ha : a + xs.length ≤ memSize) : Memory.wf b (Memory.writeBytes b xs a m) = true := by
  induction xs generalizing m a with
  | nil => exact h
  | cons x xs ih =>
    simp only [List.length_cons] at ha
    exact ih _ _ (Memory.wf_write b m a x h (by omega)) (by omega)

/-- Two canonical memories that read alike everywhere are equal. -/
theorem Memory.ext_of_wf (m m' : Memory) (h : Memory.wf b m = true) (h' : Memory.wf b m' = true)
    (hr : ∀ a, Memory.read b m a = Memory.read b m' a) : m = m' := by
  have unlisted : ∀ (n : Memory) (a : Nat), (∀ d ∈ n, a < d.1) → Memory.read b n a = resetByte b a := by
    intro n a hn
    induction n with
    | nil => rfl
    | cons d n ih =>
      have hd := hn d (by simp)
      rw [Memory.read, if_neg (by omega)]
      exact ih fun e he => hn e (by simp [he])
  induction m generalizing m' with
  | nil =>
    cases m' with
    | nil => rfl
    | cons c' m' =>
      obtain ⟨-, h2, -, -⟩ := (Memory.wf_cons b c' m').mp h'
      have := hr c'.1
      simp only [Memory.read, if_true] at this
      exact absurd this.symm h2
  | cons c m ih =>
    obtain ⟨h1, h2, h3, h4⟩ := (Memory.wf_cons b c m).mp h
    cases m' with
    | nil =>
      have := hr c.1
      simp only [Memory.read, if_true] at this
      exact absurd this h2
    | cons c' m' =>
      obtain ⟨h1', h2', h3', h4'⟩ := (Memory.wf_cons b c' m').mp h'
      have key : c.1 = c'.1 := by
        rcases lt_trichotomy c.1 c'.1 with hlt | heq | hlt
        · have hu := unlisted (c' :: m') c.1 (by
            intro d hd
            rcases List.mem_cons.mp hd with rfl | hd
            · exact hlt
            · exact lt_trans hlt (h3' d hd))
          have := hr c.1
          rw [hu] at this
          simp only [Memory.read, if_true] at this
          exact absurd this h2
        · exact heq
        · have hu := unlisted (c :: m) c'.1 (by
            intro d hd
            rcases List.mem_cons.mp hd with rfl | hd
            · exact hlt
            · exact lt_trans hlt (h3 d hd))
          have := hr c'.1
          rw [hu] at this
          simp only [Memory.read, if_true] at this
          exact absurd this.symm h2'
      have hval : c.2 = c'.2 := by
        have := hr c.1
        simpa [Memory.read, key] using this
      have htail : m = m' := by
        refine ih m' h4 h4' fun a => ?_
        by_cases ha : c.1 = a
        · rw [unlisted m a (fun d hd => ha ▸ h3 d hd),
            unlisted m' a (fun d hd => by have := h3' d hd; omega)]
        · have := hr a
          simpa [Memory.read, ha, show ¬c'.1 = a by omega] using this
      rw [htail, Prod.ext key hval]

/-! ### Through State -/

/-- What a stored byte does to every load. -/
@[simp] theorem State.storeByte_loadByte (s : State) (a a' : Addr) (x : Byte) :
    (s.storeByte a x).loadByte a' = if a' = a then x else s.loadByte a' := by
  simp only [State.loadByte, State.storeByte_mem, State.storeByte_build, Memory.read_write,
    BitVec.toNat_inj]

/-- A store keeps the canonical form. -/
theorem State.storeByte_wf (s : State) (a : Addr) (x : Byte) (h : Memory.wf s.build s.mem = true) :
    Memory.wf (s.storeByte a x).build (s.storeByte a x).mem = true :=
  Memory.wf_write s.build s.mem a.toNat x h a.isLt

/-- Reset memory is in canonical form. -/
theorem State.reset_mem_wf : Memory.wf State.reset.build State.reset.mem = true := rfl

end Sys2Proof.Machine
end

