-- ==== Sys2Proof/Laws/Ops.lean ====
section
/-! SUPPORT. What each shared operation can do, said once: stack, effective addresses, block moves,
random source, keys, conditions and frames. -/

namespace Sys2Proof.Machine

variable (s : State)

/-! ### Call stack (spec/10_state.md R26, R27) -/

theorem State.push_of_lt (w : Word) (h : s.sp.val < 16) :
    s.push w = some { s with stack := s.stack.set s.sp.val w, sp := ⟨s.sp.val + 1, by omega⟩ } := by
  simp [State.push, h]

theorem State.push_of_full (w : Word) (h : s.sp.val = 16) : s.push w = none := by
  simp [State.push, h]

theorem State.pop_of_pos (h : 0 < s.sp.val) :
    s.pop = some (s.stack[s.sp.val - 1], { s with sp := ⟨s.sp.val - 1, by omega⟩ }) := by
  simp only [State.pop, h, dif_pos]

theorem State.pop_of_empty (h : s.sp.val = 0) : s.pop = none := by
  simp [State.pop, h]

/-! ### Effective addresses (spec/20_memory.md R55) -/

theorem State.ea_toNat (k : Nat) : (s.ea k).toNat = (s.i.toNat + k) % 4096 := by
  simp [State.ea]

/-- Two offsets of one access never meet, since they are below 16 (R56). -/
theorem State.ea_inj (j k : Nat) (hj : j < 16) (hk : k < 16) : s.ea j = s.ea k ↔ j = k := by
  constructor
  · intro h
    have := congrArg BitVec.toNat h
    rw [State.ea_toNat, State.ea_toNat] at this
    omega
  · rintro rfl; rfl

/-! ### Block moves (spec/42_index_memory.md R134, R135) -/

@[simp] theorem State.dumpRegs_reg (n : Nat) (r : Reg) : (s.dumpRegs n).reg r = s.reg r := by
  simp [State.reg]

@[simp] theorem State.dumpRegs_ea (n k : Nat) : (s.dumpRegs n).ea k = s.ea k := by
  simp [State.ea]

@[simp] theorem State.loadRegs_loadByte (n : Nat) (a : Addr) :
    (s.loadRegs n).loadByte a = s.loadByte a := by
  simp [State.loadByte]

@[simp] theorem State.loadRegs_ea (n k : Nat) : (s.loadRegs n).ea k = s.ea k := by
  simp [State.ea]

theorem regNum_val (k : Nat) (h : k < 16) : (regNum k).val = k := Nat.mod_eq_of_lt h

@[simp] theorem regNum_reg (r : Reg) : regNum r.val = r := Fin.ext (regNum_val r.val r.isLt)

/-- A dumped register stands at its address. -/
theorem State.dumpRegs_loadByte_ea (n k : Nat) (hn : n ≤ 16) (hk : k < n) :
    (s.dumpRegs n).loadByte (s.ea k) = s.reg (regNum k) := by
  induction n with
  | zero => omega
  | succ n ih =>
    rw [State.dumpRegs, State.storeByte_loadByte]
    by_cases h : k = n
    · rw [h, if_pos rfl]
    · rw [if_neg (by rw [State.ea_inj s k n (by omega) (by omega)]; exact h)]
      exact ih (by omega) (by omega)

/-- A dump changes no byte but those it stores to. -/
theorem State.dumpRegs_loadByte_other (n : Nat) (a : Addr) (h : ∀ k < n, a ≠ s.ea k) :
    (s.dumpRegs n).loadByte a = s.loadByte a := by
  induction n with
  | zero => rfl
  | succ n ih =>
    rw [State.dumpRegs, State.storeByte_loadByte, if_neg (h n (by omega))]
    exact ih fun k hk => h k (by omega)

theorem State.dumpRegs_wf (n : Nat) (h : Memory.wf s.build s.mem = true) :
    Memory.wf s.build (s.dumpRegs n).mem = true := by
  induction n with
  | zero => exact h
  | succ n ih =>
    rw [State.dumpRegs]
    simpa using State.storeByte_wf (s.dumpRegs n) (s.ea n) (s.reg (regNum n)) (by simpa using ih)

/-- A load sets exactly the registers below `n`. -/
theorem State.loadRegs_reg (n : Nat) (hn : n ≤ 16) (r : Reg) :
    (s.loadRegs n).reg r = if r.val < n then s.loadByte (s.ea r.val) else s.reg r := by
  induction n with
  | zero => rfl
  | succ n ih =>
    rw [State.loadRegs, State.setReg_reg, ih (by omega)]
    have hv : (regNum n).val = n := regNum_val n (by omega)
    by_cases h : regNum n = r
    · have : r.val = n := by rw [← h, hv]
      simp [h, this]
    · have : r.val ≠ n := fun e => h (Fin.ext (by rw [hv, e]))
      by_cases h2 : r.val < n
      · simp [h, h2, show r.val < n + 1 by omega]
      · simp [h, h2, show ¬r.val < n + 1 by omega]

/-! ### Keys (spec/44_keys_timers.md R153) -/

/-- The key FX0A finds has an edge, and no lower key has one. -/
theorem State.releasedKey_some (k : Nat) (h : s.releasedKey = some k) :
    k < 16 ∧ s.keyUpEdge k = true ∧ ∀ j < k, s.keyUpEdge j = false := by
  unfold State.releasedKey at h
  obtain ⟨h1, h2⟩ := List.find?_eq_some_iff_getElem.mp h
  obtain ⟨i, hi, rfl, hlt⟩ := h2
  simp only [List.length_range] at hi
  simp only [List.getElem_range] at h1 ⊢
  refine ⟨hi, h1, fun j hj => ?_⟩
  simpa using hlt j hj

/-- FX0A finds a key exactly when one of the sixteen has an edge. -/
theorem State.releasedKey_none : s.releasedKey = none ↔ ∀ k < 16, s.keyUpEdge k = false := by
  simp [State.releasedKey, List.find?_eq_none]

/-! ### Frames and conditions (spec/60_exceptions.md R189) -/

theorem Untouched.refl (c : Touched) : Untouched c s s := by
  simp [Untouched]

/-- Raising a condition does exactly what R189 lists. -/
theorem State.raise_Raised (c : Condition) (info : Word) : Raised c info s (s.raise c info) := by
  simp [Raised, Untouched]

/-- Taking the request and advancing PC keep the canonical form and everything but PC and
STEP_REQ. -/
theorem State.fetched_pc : s.fetched.pc = s.pc + 2 := by
  simp [State.fetched]

theorem State.fetched_stepReq :
    s.fetched.stepReq = if s.inputs.stepMode then false else s.stepReq := by
  simp [State.fetched]

end Sys2Proof.Machine
end

