-- ==== Sys2Proof/Laws/Display.lean ====
section
/-! SUPPORT. What a draw does, pixel by pixel: the loops of DXYN in closed form
(spec/43_display.md R141). -/

namespace Sys2Proof.Machine

/-! ### Single pixels -/

theorem FrameBuffer.pixel_blank (x y : Nat) : FrameBuffer.blank.pixel x y = false := by
  unfold FrameBuffer.pixel FrameBuffer.blank
  split <;> simp

/-- Flipping a pixel on the screen changes that pixel and no other. -/
theorem FrameBuffer.pixel_flip (fb : FrameBuffer) (x y x' y' : Nat) (hx : x < 64) (hy : y < 32) :
    (fb.flip x y).pixel x' y' = (fb.pixel x' y' ^^ decide (x' = x ∧ y' = y)) := by
  unfold FrameBuffer.pixel FrameBuffer.flip
  rw [dif_pos hy]
  by_cases hy' : y' < 32
  · rw [dif_pos hy', dif_pos hy', Vector.getElem_set]
    by_cases h : y = y'
    · subst h
      by_cases hx' : x' = x
      · subst hx'; simp [hx]
      · by_cases hlt : x' < x
        · simp [hx', hlt]
        · have : x' - x ≠ 0 := by omega
          simp [hx', hlt, BitVec.getLsbD_one, this]
    · have h' : ¬y' = y := fun e => h e.symm
      simp [h, h']
  · rw [dif_neg hy', dif_neg hy']
    have : y' ≠ y := by omega
    simp [this]

/-- Two framebuffers with equal pixels are equal. -/
theorem FrameBuffer.ext_pixel (f g : FrameBuffer)
    (h : ∀ x < 64, ∀ y < 32, f.pixel x y = g.pixel x y) : f = g := by
  apply Vector.ext
  intro y hy
  apply BitVec.eq_of_getLsbD_eq
  intro x hx
  simpa [FrameBuffer.pixel, hy] using h x hx y hy

/-! ### A sprite row -/

/-- Column c of a sprite row of byte `b` is a visible pixel of value 1. -/
def colLit (b : Byte) (x0 c : Nat) : Bool := decide (x0 + c ≤ 63) && b.getLsbD (7 - c)

/-- The pixels of a row after its first `n` columns. -/
theorem Canvas.drawCols_pixel (c : Canvas) (b : Byte) (x0 y n x' y' : Nat) (hy : y < 32) :
    (c.drawCols b x0 y n).fb.pixel x' y' =
      (c.fb.pixel x' y' ^^
        (decide (y' = y) && decide (x0 ≤ x') && decide (x' < x0 + n) && colLit b x0 (x' - x0))) := by
  induction n with
  | zero =>
    by_cases h : x0 ≤ x'
    · simp [Canvas.drawCols, show ¬x' < x0 by omega]
    · simp [Canvas.drawCols, h]
  | succ n ih =>
    unfold Canvas.drawCols
    by_cases hc : x' = x0 + n
    · subst hc
      have hsub : x0 + n - x0 = n := by omega
      split
      · rename_i h
        simp only [Canvas.plot]
        rw [FrameBuffer.pixel_flip _ _ _ _ _ (by omega) hy, ih]
        simp [colLit, hsub, h.1, h.2]
      · rename_i h
        have : colLit b x0 n = false := by
          simp only [colLit, Bool.and_eq_false_iff, decide_eq_false_iff_not]
          by_cases h1 : x0 + n ≤ 63
          · exact .inr (by simpa using fun e => h ⟨h1, e⟩)
          · exact .inl h1
        rw [ih]; simp [hsub, this]
    · have hlt : decide (x' < x0 + n) = decide (x' < x0 + (n + 1)) := by
        congr 1; exact propext ⟨fun h => by omega, fun h => by omega⟩
      split
      · rename_i h
        simp only [Canvas.plot]
        rw [FrameBuffer.pixel_flip _ _ _ _ _ (by omega) hy, ih, hlt]
        simp [hc]
      · rw [ih, hlt]

/-- The collision of a row after its first `n` columns, `n` at most 8. -/
theorem Canvas.drawCols_hit (c : Canvas) (b : Byte) (x0 y n : Nat) (hy : y < 32) :
    (c.drawCols b x0 y n).hit = true ↔
      c.hit = true ∨ ∃ k < n, colLit b x0 k = true ∧ c.fb.pixel (x0 + k) y = true := by
  induction n with
  | zero => simp [Canvas.drawCols]
  | succ n ih =>
    have key : (c.drawCols b x0 y n).fb.pixel (x0 + n) y = c.fb.pixel (x0 + n) y := by
      rw [Canvas.drawCols_pixel c b x0 y n _ _ hy]; simp
    have split_last : (∃ k < n + 1, colLit b x0 k = true ∧ c.fb.pixel (x0 + k) y = true) ↔
        (∃ k < n, colLit b x0 k = true ∧ c.fb.pixel (x0 + k) y = true) ∨
          (colLit b x0 n = true ∧ c.fb.pixel (x0 + n) y = true) := by
      constructor
      · rintro ⟨k, hk, h⟩
        by_cases hkn : k = n
        · exact .inr (hkn ▸ h)
        · exact .inl ⟨k, by omega, h⟩
      · rintro (⟨k, hk, h⟩ | h)
        · exact ⟨k, by omega, h⟩
        · exact ⟨n, by omega, h⟩
    rw [split_last]
    unfold Canvas.drawCols
    split
    · rename_i h
      have : colLit b x0 n = true := by simp [colLit, h.1, h.2]
      simp only [Canvas.plot, Bool.or_eq_true, ih, key, this, true_and, or_assoc]
    · rename_i h
      have : colLit b x0 n = false := by
        simp only [colLit, Bool.and_eq_false_iff, decide_eq_false_iff_not]
        by_cases h1 : x0 + n ≤ 63
        · exact .inr (by simpa using fun e => h ⟨h1, e⟩)
        · exact .inl h1
      simp [ih, this]

/-! ### A sprite -/

/-- The pixel at column `x`, row `y` of the screen is one that the sprite sets to be flipped. -/
def spriteLit (row : Nat → Byte) (x0 y0 n x y : Nat) : Bool :=
  decide (y0 ≤ y) && decide (y < y0 + n) && decide (x0 ≤ x) && decide (x < x0 + 8) &&
    (row (y - y0)).getLsbD (7 - (x - x0))

/-- The pixels after the first `n` rows: those the sprite covers with a 1 are flipped. -/
theorem Canvas.drawRows_pixel (c : Canvas) (row : Nat → Byte) (x0 y0 n x y : Nat) (hx : x < 64)
    (hy : y < 32) :
    (c.drawRows row x0 y0 n).fb.pixel x y = (c.fb.pixel x y ^^ spriteLit row x0 y0 n x y) := by
  induction n with
  | zero =>
    have : spriteLit row x0 y0 0 x y = false := by
      simp only [spriteLit]
      by_cases h : y0 ≤ y
      · simp [show ¬y < y0 by omega]
      · simp [h]
    simp [Canvas.drawRows, this]
  | succ n ih =>
    unfold Canvas.drawRows
    by_cases hyn : y = y0 + n
    · subst hyn
      have h1 : spriteLit row x0 y0 n x (y0 + n) = false := by simp [spriteLit]
      have h2 : y0 + n - y0 = n := by omega
      rw [if_pos (by omega), Canvas.drawCols_pixel _ _ _ _ _ _ _ hy, ih, h1]
      have : colLit (row n) x0 (x - x0) = (row n).getLsbD (7 - (x - x0)) ∨ ¬x0 ≤ x := by
        by_cases h : x0 ≤ x
        · left; simp [colLit, show x0 + (x - x0) ≤ 63 by omega]
        · exact .inr h
      rcases this with h | h
      · simp [spriteLit, h2, h]
      · simp [spriteLit, h]
    · have hs : spriteLit row x0 y0 (n + 1) x y = spriteLit row x0 y0 n x y := by
        simp only [spriteLit]
        have : decide (y < y0 + (n + 1)) = decide (y < y0 + n) := by
          congr 1; exact propext ⟨fun h => by omega, fun h => by omega⟩
        rw [this]
      split
      · rw [Canvas.drawCols_pixel _ _ _ _ _ _ _ (by omega), ih, hs]
        simp [hyn]
      · rw [ih, hs]

/-- The collision after the first `n` rows: some lit sprite pixel on the screen meets a lit pixel. -/
theorem Canvas.drawRows_hit (c : Canvas) (row : Nat → Byte) (x0 y0 n : Nat) :
    (c.drawRows row x0 y0 n).hit = true ↔
      c.hit = true ∨ ∃ x < 64, ∃ y < 32, spriteLit row x0 y0 n x y = true ∧ c.fb.pixel x y = true := by
  induction n with
  | zero =>
    have : ∀ x y, spriteLit row x0 y0 0 x y = false := by
      intro x y
      simp only [spriteLit]
      by_cases h : y0 ≤ y
      · simp [show ¬y < y0 by omega]
      · simp [h]
    simp [Canvas.drawRows, this]
  | succ n ih =>
    have step_lit : ∀ x y, spriteLit row x0 y0 (n + 1) x y = true ↔
        spriteLit row x0 y0 n x y = true ∨
          (y = y0 + n ∧ x0 ≤ x ∧ x < x0 + 8 ∧ (row n).getLsbD (7 - (x - x0)) = true) := by
      intro x y
      simp only [spriteLit, Bool.and_eq_true, decide_eq_true_eq]
      constructor
      · rintro ⟨⟨⟨⟨h1, h2⟩, h3⟩, h4⟩, h5⟩
        by_cases hy : y = y0 + n
        · refine .inr ⟨hy, h3, h4, ?_⟩
          rwa [hy, show y0 + n - y0 = n by omega] at h5
        · exact .inl ⟨⟨⟨⟨h1, by omega⟩, h3⟩, h4⟩, h5⟩
      · rintro (⟨⟨⟨⟨h1, h2⟩, h3⟩, h4⟩, h5⟩ | ⟨h1, h3, h4, h5⟩)
        · exact ⟨⟨⟨⟨h1, by omega⟩, h3⟩, h4⟩, h5⟩
        · refine ⟨⟨⟨⟨by omega, by omega⟩, h3⟩, h4⟩, ?_⟩
          rwa [h1, show y0 + n - y0 = n by omega]
    unfold Canvas.drawRows
    split
    · rename_i hy
      rw [Canvas.drawCols_hit _ _ _ _ _ (by omega), ih]
      constructor
      · rintro ((h | ⟨x, hx, y, hy', h1, h2⟩) | ⟨k, hk, h1, h2⟩)
        · exact .inl h
        · exact .inr ⟨x, hx, y, hy', (step_lit x y).mpr (.inl h1), h2⟩
        · simp only [colLit, Bool.and_eq_true, decide_eq_true_eq] at h1
          refine .inr ⟨x0 + k, by omega, y0 + n, by omega, (step_lit _ _).mpr (.inr ?_), ?_⟩
          · exact ⟨rfl, by omega, by omega, by simpa using h1.2⟩
          · rw [Canvas.drawRows_pixel _ _ _ _ _ _ _ (by omega) (by omega)] at h2
            simpa [spriteLit] using h2
      · rintro (h | ⟨x, hx, y, hy', h1, h2⟩)
        · exact .inl (.inl h)
        · rcases (step_lit x y).mp h1 with h1 | ⟨rfl, h3, h4, h5⟩
          · exact .inl (.inr ⟨x, hx, y, hy', h1, h2⟩)
          · refine .inr ⟨x - x0, by omega, ?_, ?_⟩
            · simp [colLit, h5, show x0 + (x - x0) ≤ 63 by omega]
            · rw [show x0 + (x - x0) = x by omega, Canvas.drawRows_pixel _ _ _ _ _ _ _ hx hy']
              simpa [spriteLit] using h2
    · rename_i hy
      rw [ih]
      constructor
      · rintro (h | ⟨x, hx, y, hy', h1, h2⟩)
        · exact .inl h
        · exact .inr ⟨x, hx, y, hy', (step_lit x y).mpr (.inl h1), h2⟩
      · rintro (h | ⟨x, hx, y, hy', h1, h2⟩)
        · exact .inl h
        · rcases (step_lit x y).mp h1 with h1 | ⟨rfl, -⟩
          · exact .inr ⟨x, hx, y, hy', h1, h2⟩
          · omega

end Sys2Proof.Machine
end

