-- ==== Sys2Proof/Laws/PerInstr.lean ====
section
/-! SUPPORT. Statements made instruction by instruction. The family EncodesInRow: an instruction
stands for a row of the opcode map and its encoding selects that row (spec/30_encoding.md R74). -/

namespace Sys2Proof.Laws

/-- Format A, I and D rows: the mask 0xF000 keeps the leading nibble. -/
theorem selects_leadingNibble (op : Word) (n : Nat) (h : fieldOp op = n) :
    OpcodeRow.selects ⟨0xF000, BitVec.ofNat 16 (n * 4096)⟩ op = true := by
  simp only [OpcodeRow.selects, beq_iff_eq]
  rw [← h]; exact and_maskF000 op

/-- The instruction's row is in the opcode map, and its encoding selects that row. -/
def EncodesInRow.Statement (i : Instr) : Prop :=
  i.wf = true ∧ i.row.selects (encode i) = true

namespace EncodesInRow

theorem cls : Statement .cls := by unfold Statement; decide
theorem ret : Statement .ret := by unfold Statement; decide
theorem jp (nnn : Addr) : Statement (.jp nnn) :=
  ⟨rfl, selects_leadingNibble _ 0x1 (fieldOp_encodeA _ _ (by decide))⟩
theorem call (nnn : Addr) : Statement (.call nnn) :=
  ⟨rfl, selects_leadingNibble _ 0x2 (fieldOp_encodeA _ _ (by decide))⟩
theorem seImm (x : Reg) (nn : Byte) : Statement (.seImm x nn) :=
  ⟨rfl, selects_leadingNibble _ 0x3 (fieldOp_encodeI _ _ _ (by decide))⟩
theorem sneImm (x : Reg) (nn : Byte) : Statement (.sneImm x nn) :=
  ⟨rfl, selects_leadingNibble _ 0x4 (fieldOp_encodeI _ _ _ (by decide))⟩
theorem seReg (x y : Reg) : Statement (.seReg x y) := ⟨rfl, by revert x y; decide⟩
theorem ldImm (x : Reg) (nn : Byte) : Statement (.ldImm x nn) :=
  ⟨rfl, selects_leadingNibble _ 0x6 (fieldOp_encodeI _ _ _ (by decide))⟩
theorem addImm (x : Reg) (nn : Byte) : Statement (.addImm x nn) :=
  ⟨rfl, selects_leadingNibble _ 0x7 (fieldOp_encodeI _ _ _ (by decide))⟩
theorem ldReg (x y : Reg) : Statement (.ldReg x y) := ⟨rfl, by revert x y; decide⟩
theorem orReg (x y : Reg) : Statement (.orReg x y) := ⟨rfl, by revert x y; decide⟩
theorem andReg (x y : Reg) : Statement (.andReg x y) := ⟨rfl, by revert x y; decide⟩
theorem xorReg (x y : Reg) : Statement (.xorReg x y) := ⟨rfl, by revert x y; decide⟩
theorem addReg (x y : Reg) : Statement (.addReg x y) := ⟨rfl, by revert x y; decide⟩
theorem subReg (x y : Reg) : Statement (.subReg x y) := ⟨rfl, by revert x y; decide⟩
theorem shrReg (x y : Reg) : Statement (.shrReg x y) := ⟨rfl, by revert x y; decide⟩
theorem subnReg (x y : Reg) : Statement (.subnReg x y) := ⟨rfl, by revert x y; decide⟩
theorem shlReg (x y : Reg) : Statement (.shlReg x y) := ⟨rfl, by revert x y; decide⟩
theorem sneReg (x y : Reg) : Statement (.sneReg x y) := ⟨rfl, by revert x y; decide⟩
theorem ldI (nnn : Addr) : Statement (.ldI nnn) :=
  ⟨rfl, selects_leadingNibble _ 0xA (fieldOp_encodeA _ _ (by decide))⟩
theorem jpV0 (nnn : Addr) : Statement (.jpV0 nnn) :=
  ⟨rfl, selects_leadingNibble _ 0xB (fieldOp_encodeA _ _ (by decide))⟩
theorem rnd (x : Reg) (nn : Byte) : Statement (.rnd x nn) :=
  ⟨rfl, selects_leadingNibble _ 0xC (fieldOp_encodeI _ _ _ (by decide))⟩
theorem drw (x y : Reg) (n : Count) : Statement (.drw x y n) :=
  ⟨rfl, selects_leadingNibble _ 0xD (fieldOp_encodeR _ _ _ _ (by decide) n.isLt)⟩
theorem skp (x : Reg) : Statement (.skp x) := ⟨rfl, by revert x; decide⟩
theorem sknp (x : Reg) : Statement (.sknp x) := ⟨rfl, by revert x; decide⟩
theorem ldVxDt (x : Reg) : Statement (.ldVxDt x) := ⟨rfl, by revert x; decide⟩
theorem ldVxK (x : Reg) : Statement (.ldVxK x) := ⟨rfl, by revert x; decide⟩
theorem ldDtVx (x : Reg) : Statement (.ldDtVx x) := ⟨rfl, by revert x; decide⟩
theorem ldStVx (x : Reg) : Statement (.ldStVx x) := ⟨rfl, by revert x; decide⟩
theorem addI (x : Reg) : Statement (.addI x) := ⟨rfl, by revert x; decide⟩
theorem ldF (x : Reg) : Statement (.ldF x) := ⟨rfl, by revert x; decide⟩
theorem ldB (x : Reg) : Statement (.ldB x) := ⟨rfl, by revert x; decide⟩
theorem ldMemVx (x : Reg) : Statement (.ldMemVx x) := ⟨rfl, by revert x; decide⟩
theorem ldVxMem (x : Reg) : Statement (.ldVxMem x) := ⟨rfl, by revert x; decide⟩

end EncodesInRow

end Sys2Proof.Laws
end

