-- ==== Sys2Proof/Laws/Step.lean ====
section
/-! SUPPORT. What the stages before dispatch answer, case by case (spec/45_execution_cycle.md R161),
and that `withFetchWord` places exactly the instruction it is given. -/

namespace Sys2Proof.Machine

variable (s : State)

theorem State.front_closed (h : s.gateOpen = false) : s.front = .done s := by
  simp [State.front, h]

theorem State.front_fails (hg : s.gateOpen = true) (hf : s.fetchable = false) :
    s.front = .done s.fetchFails := by
  simp [State.front, hg, hf]

theorem State.front_unknown (hg : s.gateOpen = true) (hf : s.fetchable = true) (e : DecodeError)
    (hd : decode (s.opcodeAt s.pc) = .error e) :
    s.front = .done (s.fetched.unknown (s.opcodeAt s.pc)) := by
  simp [State.front, hg, hf, hd]

theorem State.front_run (hg : s.gateOpen = true) (hf : s.fetchable = true) (i : Instr)
    (hd : decode (s.opcodeAt s.pc) = .ok i) : s.front = .run i s.fetched := by
  simp [State.front, hg, hf, hd]

/-- Everything `front` can answer. -/
theorem State.front_cases :
    (s.gateOpen = false ∧ s.front = .done s) ∨
    (s.gateOpen = true ∧ s.fetchable = false ∧ s.front = .done s.fetchFails) ∨
    (s.gateOpen = true ∧ s.fetchable = true ∧
      s.front = .done (s.fetched.unknown (s.opcodeAt s.pc))) ∨
    (s.gateOpen = true ∧ s.fetchable = true ∧
      ∃ i, decode (s.opcodeAt s.pc) = .ok i ∧ s.front = .run i s.fetched) := by
  by_cases hg : s.gateOpen = true
  · by_cases hf : s.fetchable = true
    · cases hd : decode (s.opcodeAt s.pc) with
      | ok i => exact .inr (.inr (.inr ⟨hg, hf, i, rfl, State.front_run s hg hf i hd⟩))
      | error e => exact .inr (.inr (.inl ⟨hg, hf, State.front_unknown s hg hf e hd⟩))
    · have hf : s.fetchable = false := by simpa using hf
      exact .inr (.inl ⟨hg, hf, State.front_fails s hg hf⟩)
  · have hg : s.gateOpen = false := by simpa using hg
    exact .inl ⟨hg, State.front_closed s hg⟩

theorem step_of_done (t : State) (h : s.front = .done t) : step s = .next t := by
  simp [step, h]

theorem step_of_run (i : Instr) (t : State) (h : s.front = .run i t) : step s = exec i t := by
  simp [step, h]

/-! ### Placing an opcode -/

theorem State.placeOpcode_gateOpen (op : Word) : (s.placeOpcode op).gateOpen = true := by
  cases hm : s.inputs.stepMode <;> simp [State.placeOpcode, State.gateOpen, hm]

theorem State.placeOpcode_fetchable (op : Word) : (s.placeOpcode op).fetchable = true := by
  by_cases h : s.pc.toNat < 4095 <;> simp [State.placeOpcode, State.fetchable, progBase, h]

theorem State.placeOpcode_opcodeAt (op : Word) :
    (s.placeOpcode op).opcodeAt (s.placeOpcode op).pc = op := by
  simp only [State.opcodeAt, State.placeOpcode, Memory.read_writeBytes]
  simp

/-- `step` runs exactly the instruction that `withFetchWord` places, on any state. -/
theorem step_withFetchWord (nbits w : Nat) (i : Instr) (h : decodeTableWord nbits w = some i) :
    step (s.withFetchWord nbits w) = exec i (s.withFetchWord nbits w).fetched := by
  have hd : decode (tableWord nbits w) = .ok i := by
    unfold decodeTableWord decodeBytes at h
    simp only [bigEndian_bytes] at h
    cases hd : decode (tableWord nbits w) with
    | ok j => rw [hd] at h; simpa using h
    | error e => rw [hd] at h; cases h
  refine step_of_run _ i _ (State.front_run _ (State.placeOpcode_gateOpen s _)
    (State.placeOpcode_fetchable s _) i ?_)
  exact (congrArg decode (State.placeOpcode_opcodeAt s _)).trans hd

/-- State.reset is what the reset operation leaves for an empty ROM (70_reset_and_hazards.md R210). -/
theorem State.reset_resetWith : State.reset.resetWith (some []) = State.reset := rfl

end Sys2Proof.Machine
end

