-- ==== Sys2Proof/Tests/Slice0.lean ====
section
/-! SUPPORT. Tests on small states, each one step or one operation. The expected values are those of
spec/95_test_vectors.md (the section is named at each group) and of the encodings of
spec/30_encoding.md R72, R74 and R82; none comes from the model. The last part shows, for every
obligation with hypotheses, a state and operands that meet them together. -/

namespace Sys2Proof.Tests

open Sys2Proof Sys2Proof.Machine

/-! ### Helpers -/

/-- The start state of the test vectors: after reset with an empty ROM. -/
def start : State := State.reset

/-- The start state with these V registers. -/
def withV (l : List (Reg × Byte)) (s : State) : State := l.foldl (fun s p => s.setReg p.1 p.2) s

/-- The state with these memory bytes. -/
def withMem (l : List (Addr × Byte)) (s : State) : State :=
  l.foldl (fun s p => s.storeByte p.1 p.2) s

/-- The framebuffer with these lit pixels (x, y). -/
def lit (l : List (Nat × Nat)) : FrameBuffer := l.foldl (fun fb p => fb.flip p.1 p.2) FrameBuffer.blank

/-- The state with this single-step setting and latch. -/
def stepping (mode req : Bool) (s : State) : State :=
  { s with inputs := { s.inputs with stepMode := mode }, stepReq := req }

/-- The state with HALT_ON_UNKNOWN false. -/
def tolerant (s : State) : State := { s with inputs := { s.inputs with haltOnUnknown := false } }

/-- The state with ADVANCE_I true. -/
def advancing (s : State) : State := { s with inputs := { s.inputs with advanceI := true } }

/-- The state a step leaves. -/
def stepped (s : State) : State :=
  match step s with
  | .next t => t
  | .fault _ => s
  | .refused _ => s

/-- One step on the opcode, placed big-endian at PC. -/
def after (op : Word) (s : State) : State :=
  stepped (withMem [(BitVec.ofNat 12 s.pc.toNat, highByte op), (BitVec.ofNat 12 (s.pc.toNat + 1), lowByte op)] s)

/-! ### What is ill formed is refused (30_encoding.md R76, 60_exceptions.md R181) -/

theorem test_wf_group0 : opcodeWf 0x0000 = false ∧ opcodeWf 0x01E0 = false ∧ opcodeWf 0x00EF = false ∧
    opcodeWf 0x00E0 = true := by decide
theorem test_wf_group5 : opcodeWf 0x5121 = false ∧ opcodeWf 0x512F = false ∧ opcodeWf 0x5120 = true := by
  decide
theorem test_wf_group8 : opcodeWf 0x8018 = false ∧ opcodeWf 0x801D = false ∧ opcodeWf 0x801F = false ∧
    opcodeWf 0x801E = true := by decide
theorem test_wf_group9 : opcodeWf 0x912F = false ∧ opcodeWf 0x9121 = false ∧ opcodeWf 0x9120 = true := by
  decide
theorem test_wf_groupE : opcodeWf 0xE29F = false ∧ opcodeWf 0xE200 = false ∧ opcodeWf 0xE29E = true := by
  decide
theorem test_wf_groupF : opcodeWf 0xF308 = false ∧ opcodeWf 0xF000 = false ∧ opcodeWf 0xF3FF = false ∧
    opcodeWf 0xF333 = true := by decide
theorem test_wf_rom : romWf (List.replicate 3585 0) = false ∧ romWf (List.replicate 3584 0) = true := by
  simp only [romWf, List.length_replicate]; decide
theorem test_wf_instr : (Instr.drw 15 15 15).wf = true ∧ Instr.ret.wf = true := by decide

/-! ### Decoding: a word of every constructor, written out from its format and row (R72, R74) -/

theorem test_decode_flow :
    decode 0b0000000011101110 = .ok .ret ∧ decode 0b0001001000110100 = .ok (.jp 0x234) ∧
    decode 0b0010101010111100 = .ok (.call 0xABC) ∧ decode 0b0011001100101010 = .ok (.seImm 3 0x2A) ∧
    decode 0b0100010010000001 = .ok (.sneImm 4 0x81) ∧ decode 0b0101000100100000 = .ok (.seReg 1 2) ∧
    decode 0b1001111000110000 = .ok (.sneReg 14 3) ∧ decode 0b1011111111110001 = .ok (.jpV0 0xFF1) := by
  decide
theorem test_decode_load :
    decode 0b0110101000101111 = .ok (.ldImm 0xA 0x2F) ∧ decode 0b0111001011110000 = .ok (.addImm 2 0xF0) ∧
    decode 0b1000000111110000 = .ok (.ldReg 1 15) ∧ decode 0b1100001100001111 = .ok (.rnd 3 0x0F) := by
  decide
theorem test_decode_alu :
    decode 0b1000000100100001 = .ok (.orReg 1 2) ∧ decode 0b1000000100100010 = .ok (.andReg 1 2) ∧
    decode 0b1000000100100011 = .ok (.xorReg 1 2) ∧ decode 0b1000101010110100 = .ok (.addReg 0xA 0xB) ∧
    decode 0b1000000100100101 = .ok (.subReg 1 2) ∧ decode 0b1000000100100110 = .ok (.shrReg 1 2) ∧
    decode 0b1000000100100111 = .ok (.subnReg 1 2) ∧ decode 0b1000000100101110 = .ok (.shlReg 1 2) := by
  decide
theorem test_decode_index :
    decode 0b1010001011110000 = .ok (.ldI 0x2F0) ∧ decode 0b1111001100011110 = .ok (.addI 3) ∧
    decode 0b1111010000101001 = .ok (.ldF 4) ∧ decode 0b1111010100110011 = .ok (.ldB 5) ∧
    decode 0b1111111101010101 = .ok (.ldMemVx 15) ∧ decode 0b1111000101100101 = .ok (.ldVxMem 1) := by
  decide
theorem test_decode_display :
    decode 0b0000000011100000 = .ok .cls ∧ decode 0b1101000100100101 = .ok (.drw 1 2 5) := by decide
theorem test_decode_keys_timers :
    decode 0b1110001010011110 = .ok (.skp 2) ∧ decode 0b1110001010100001 = .ok (.sknp 2) ∧
    decode 0b1111011000000111 = .ok (.ldVxDt 6) ∧ decode 0b1111000100001010 = .ok (.ldVxK 1) ∧
    decode 0b1111001100010101 = .ok (.ldDtVx 3) ∧ decode 0b1111001100011000 = .ok (.ldStVx 3) := by
  decide
theorem test_decode_bytes : decodeBytes [0xD1, 0x25, 0x00] = .ok (.drw 1 2 5, [0x00]) ∧
    decodeBytes [0xD1] = .error .truncated ∧ decodeTableWord 16 0x8AB4 = some (.addReg 0xA 0xB) := by
  decide

/-! ### Control flow (95_test_vectors.md 2.1) -/

theorem test_ret : (fun t : State => (t.pc, t.sp, t.stack[15])) (after 0x00EE
    { start with pc := 0x300, sp := 16, stack := start.stack.set 15 0x0ABC }) = (0x0ABC, 15, 0x0ABC) := by
  decide
theorem test_ret_underflow : (fun t : State => (t.pc, t.sp, t.haltReason, t.reports)) (after 0x00EE
    { start with pc := 0x300 }) = (0x302, 0, some .stackUnderflow, [⟨.stackUnderflow, 0x00EE⟩]) := by
  decide
theorem test_jp : (after 0x1201 start).pc = 0x0201 := by decide
theorem test_call : (fun t : State => (t.pc, t.sp, t.stack[15])) (after 0x2300 { start with sp := 15 }) =
    (0x0300, 16, 0x0202) := by decide
theorem test_call_overflow : (fun t : State => (t.pc, t.sp, t.haltReason, t.reports)) (after 0x2300
    { start with sp := 16 }) = (0x0202, 16, some .stackOverflow, [⟨.stackOverflow, 0x2300⟩]) := by
  decide
theorem test_se_imm : (after 0x332A (withV [(3, 0x2A)] start)).pc = 0x0204 ∧
    (after 0x332A (withV [(3, 0x2B)] start)).pc = 0x0202 := by decide
theorem test_se_imm_at_end : (after 0x3000 { start with pc := 0xFFE }).pc = 0x1002 := by decide
theorem test_sne_imm : (after 0x432A (withV [(3, 0x2A)] start)).pc = 0x0202 ∧
    (after 0x432A start).pc = 0x0204 := by decide
theorem test_se_reg : (after 0x5120 (withV [(1, 7), (2, 7)] start)).pc = 0x0204 ∧
    (after 0x5120 (withV [(1, 7), (2, 8)] start)).pc = 0x0202 := by decide
theorem test_sne_reg : (after 0x9120 (withV [(1, 7), (2, 8)] start)).pc = 0x0204 ∧
    (after 0x9330 (withV [(3, 9)] start)).pc = 0x0202 := by decide
theorem test_jp_v0 : (after 0xB2FF (withV [(0, 2), (2, 0x50)] start)).pc = 0x0301 := by decide
theorem test_jp_v0_unmasked : (after 0xBFFF (withV [(0, 0xFF)] start)).pc = 0x10FE := by decide

/-! ### Load, arithmetic, logic, shift, random (95_test_vectors.md 2.2) -/

theorem test_ld_imm : (after 0x6A2F start).reg 0xA = 0x2F ∧ (after 0x6F01 start).reg vf = 1 := by decide
theorem test_add_imm : (fun t : State => (t.reg 2, t.reg vf))
    (after 0x7220 (withV [(2, 0xF0), (15, 0x55)] start)) = (0x10, 0x55) := by decide
theorem test_add_imm_vf : (after 0x7F02 (withV [(15, 0xFF)] start)).reg vf = 0x01 := by decide
theorem test_ld_reg : (fun t : State => (t.reg 0, t.reg 1, t.reg vf))
    (after 0x8010 (withV [(1, 0x33), (15, 1)] start)) = (0x33, 0x33, 1) := by decide
theorem test_or : (fun t : State => (t.reg 1, t.reg vf))
    (after 0x81F1 (withV [(1, 0x10), (15, 1)] start)) = (0x11, 0) := by decide
theorem test_or_vf : (after 0x8F11 (withV [(15, 0xF0), (1, 0x0F)] start)).reg vf = 0 := by decide
theorem test_and : (fun t : State => (t.reg 0, t.reg vf))
    (after 0x8012 (withV [(0, 0x0C), (1, 0x0A), (15, 1)] start)) = (0x08, 0) := by decide
theorem test_xor : (fun t : State => (t.reg 0, t.reg vf))
    (after 0x8013 (withV [(0, 0x0C), (1, 0x0A), (15, 1)] start)) = (0x06, 0) := by decide
theorem test_add : (fun t : State => (t.reg 0, t.reg vf))
    (after 0x8014 (withV [(0, 0xF0), (1, 0x20)] start)) = (0x10, 1) := by decide
theorem test_add_vf : (after 0x8F14 (withV [(15, 1), (1, 2)] start)).reg vf = 0 := by decide
theorem test_sub_equal : (fun t : State => (t.reg 0, t.reg vf))
    (after 0x8015 (withV [(0, 5), (1, 5)] start)) = (0, 1) := by decide
theorem test_sub_borrow : (fun t : State => (t.reg 0, t.reg vf))
    (after 0x8015 (withV [(0, 3), (1, 5), (15, 1)] start)) = (0xFE, 0) := by decide
theorem test_shr : (fun t : State => (t.reg 0, t.reg 1, t.reg vf))
    (after 0x8016 (withV [(0, 0xAA), (1, 5)] start)) = (2, 5, 1) := by decide
theorem test_shr_from_vf : (fun t : State => (t.reg 0, t.reg vf))
    (after 0x80F6 (withV [(15, 3)] start)) = (1, 1) := by decide
theorem test_subn : (fun t : State => (t.reg 0, t.reg vf))
    (after 0x8017 (withV [(0, 3), (1, 5)] start)) = (2, 1) := by decide
theorem test_subn_borrow : (fun t : State => (t.reg 0, t.reg vf))
    (after 0x8017 (withV [(0, 5), (1, 3), (15, 1)] start)) = (0xFE, 0) := by decide
theorem test_shl : (fun t : State => (t.reg 0, t.reg 1, t.reg vf))
    (after 0x801E (withV [(1, 0x81)] start)) = (2, 0x81, 1) := by decide
theorem test_shl_vf : (after 0x8F1E (withV [(1, 0x80)] start)).reg vf = 1 := by decide
theorem test_rnd : (fun t : State => (t.reg 3, t.rand)) (after 0xC30F (start.supplyRand [0xB7, 0xFF])) =
    (0x07, [0xFF]) := by decide

/-! ### Index and memory (95_test_vectors.md 2.3) -/

theorem test_ld_i : (after 0xA2F0 { start with i := 0xF123 }).i = 0x02F0 := by decide
theorem test_add_i : (fun t : State => (t.i, t.reg vf))
    (after 0xF21E (withV [(2, 0xFF)] { start with i := 0xFFFF })) = (0x00FE, 0) := by decide
theorem test_ld_f : (after 0xF429 (withV [(4, 0x0B)] start)).i = 0x0037 ∧
    (after 0xF429 (withV [(4, 0x1A)] start)).i = 0x0032 := by decide
theorem test_ld_b : (fun t : State => (t.loadByte 0x300, t.loadByte 0x301, t.loadByte 0x302, t.i))
    (after 0xF533 (withV [(5, 0x9C)] { start with i := 0x0300 })) = (1, 5, 6, 0x0300) := by decide
theorem test_ld_b_wraps : (fun t : State => (t.loadByte 0xFFF, t.loadByte 0x000, t.loadByte 0x001))
    (after 0xF533 (withV [(5, 0x7B)] { start with i := 0x0FFF })) = (1, 2, 3) := by decide
theorem test_dump : (fun t : State => (t.loadByte 0x400, t.loadByte 0x401, t.loadByte 0x402,
      t.loadByte 0x403, t.i))
    (after 0xF255 (advancing (withV [(0, 0x11), (1, 0x22), (2, 0x33), (3, 0x44)] { start with i := 0x0400 })))
    = (0x11, 0x22, 0x33, 0, 0x0403) := by decide
theorem test_dump_wraps : (fun t : State => (t.loadByte 0xFFE, t.loadByte 0xFFF, t.loadByte 0x000,
      t.loadByte 0x001, t.i))
    (after 0xF355 (withV [(0, 0xA0), (1, 0xA1), (2, 0xA2), (3, 0xA3)] { start with i := 0x0FFE }))
    = (0xA0, 0xA1, 0xA2, 0xA3, 0x0FFE) := by decide
theorem test_load : (fun t : State => (t.reg 0, t.reg 1, t.reg 2, t.i))
    (after 0xF165 (withV [(2, 0x77)] (withMem [(0x400, 0xAA), (0x401, 0xBB), (0x402, 0xCC)]
      { start with i := 0x0400 }))) = (0xAA, 0xBB, 0x77, 0x0400) := by decide
theorem test_load_wraps : (fun t : State => (t.reg 0, t.reg 1, t.reg 2))
    (after 0xF265 (withMem [(0xFFF, 0x5A)] { start with i := 0x0FFF })) = (0x5A, 0xF0, 0x90) := by decide

/-! ### Display (95_test_vectors.md 2.4) -/

theorem test_cls : (fun t : State => (t.fb, t.dirty, t.reg vf))
    (after 0x00E0 (withV [(15, 1)] { start with fb := lit [(5, 5), (63, 31)] })) = (lit [], true, 1) := by
  decide
theorem test_drw_clips : (fun t : State => (t.fb, t.dirty, t.reg vf))
    (after 0xD011 (withV [(0, 60)] (withMem [(0x300, 0xFF)] { start with i := 0x300 }))) =
    (lit [(60, 0), (61, 0), (62, 0), (63, 0)], true, 0) := by decide
theorem test_drw_collides : (fun t : State => (t.fb, t.dirty, t.reg vf))
    (after 0xD011 (withMem [(0x300, 0xC0)] { start with i := 0x300, fb := lit [(1, 0)] })) =
    (lit [(0, 0)], true, 1) := by decide

/-! ### Keys and timers (95_test_vectors.md 2.5) -/

theorem test_skp : (after 0xE29E (withV [(2, 7)] { start with keyCur := 0x0080 })).pc = 0x0204 ∧
    (after 0xE29E (withV [(2, 7)] start)).pc = 0x0202 := by decide
theorem test_sknp : (after 0xE2A1 (withV [(2, 7)] { start with keyCur := 0x0080 })).pc = 0x0202 ∧
    (after 0xE2A1 (withV [(2, 7)] start)).pc = 0x0204 := by decide
theorem test_ld_vx_dt : (after 0xF607 { start with dt := 0x2A }).reg 6 = 0x2A := by decide
theorem test_ld_vx_k : (fun t : State => (t.reg 1, t.pc))
    (after 0xF10A { start with keyPrev := 0x1208, keyCur := 0x0200 }) = (3, 0x0202) := by decide
theorem test_ld_vx_k_press : (fun t : State => (t.reg 1, t.pc))
    (after 0xF10A (withV [(1, 0xEE)] { start with keyCur := 0x0080 })) = (0xEE, 0x0200) := by decide
theorem test_ld_dt_vx : (after 0xF315 (withV [(3, 0x3C)] start)).dt = 60 := by decide
theorem test_ld_st_vx : (fun t : State => (t.st, t.tone))
    (after 0xF318 { start with st := 9, tone := true }) = (0, true) := by decide

/-! ### Fetch, decode, run state, single step (95_test_vectors.md 2.6) -/

theorem test_unknown_halts : (fun t : State => (t.pc, t.run, t.haltReason, t.reports))
    (after 0x5121 start) = (0x0202, .halted, some .unknownOpcode, [⟨.unknownOpcode, 0x5121⟩]) := by decide
theorem test_unknown_reported : (fun t : State => (t.pc, t.run, t.haltReason, t.reports))
    (after 0x0123 (tolerant start)) = (0x0202, .running, none, [⟨.unknownOpcode, 0x0123⟩]) := by decide
theorem test_fetch_odd_and_last : (after 0x6005 { start with pc := 0x201 }).pc = 0x0203 ∧
    (after 0x1300 { start with pc := 0xFFE }).pc = 0x0300 := by decide
theorem test_fetch_fails : (fun t : State => (t.pc, t.run, t.haltReason, t.reports))
    (stepped { start with pc := 0x0FFF }) =
    (0x0FFF, .halted, some .fetchOutOfBounds, [⟨.fetchOutOfBounds, 0x0FFF⟩]) := by decide
theorem test_gate_closed : (fun t : State => (t.reg 0, t.pc)) (after 0x6005 (stepping true false start)) =
    (0, 0x0200) := by decide
theorem test_gate_open : (fun t : State => (t.reg 0, t.pc, t.stepReq))
    (after 0x6005 (stepping true true start)) = (5, 0x0202, false) := by decide
theorem test_gate_off : (fun t : State => (t.reg 0, t.pc, t.stepReq))
    (after 0x6005 (stepping false true start)) = (5, 0x0202, true) := by decide
theorem test_halted : (fun t : State => (t.reg 0, t.pc, t.stepReq))
    (after 0x6005 (stepping true true { start with run := .halted, haltReason := some .stackOverflow })) =
    (0, 0x0200, true) := by decide
theorem test_with_fetch_word : (fun t : State => (t.reg 0xA, t.pc))
    (stepped ((stepping true false { start with pc := 0xFFFF, run := .halted }).withFetchWord 16 0x6A2F)) =
    (0x2F, 0x0202) := by decide

/-! ### Host operations (95_test_vectors.md Part 3) -/

theorem test_tick : (fun t : State => (t.dt, t.st, t.tone)) ({ start with st := 2 } : State).tickTimers =
    (0, 1, true) := by decide
theorem test_tick_ends_tone : (fun t : State => (t.dt, t.st, t.tone))
    ({ start with dt := 3, st := 1, tone := true } : State).tickTimers = (2, 0, false) := by decide
theorem test_update_keys : (fun t : State => (t.keyPrev, t.keyCur, t.keyUpEdge 2, t.keyUpEdge 3))
    (({ start with keyPrev := 0x0002, keyCur := 0x000C } : State).updateKeys 0x0018) =
    (0x000C, 0x0018, true, false) := by decide
theorem test_consume_frame : (fun t : State => (t.frames, t.dirty, t.fb.flat 0))
    ({ start with dirty := true, fb := lit [(0, 0)] } : State).consumeFrame =
    ([lit [(0, 0)]], false, true) := by decide
theorem test_reset_rom : (fun t : State => (t.loadByte 0x200, t.loadByte 0x201, t.loadByte 0x202, t.pc))
    (({ start with run := .halted, haltReason := some .stackOverflow, pc := 7 } : State).resetWith
      (some [0xA2])) = (0xA2, 0, 0, 0x200) := by decide
theorem test_reset_absent : (fun t : State => (t.run, t.haltReason, haltCode t.haltReason, t.reports))
    (start.resetWith none) = (.halted, some .romUnreadable, 2, [⟨.romUnreadable, 0⟩]) := by decide

/-! ### The hypotheses of the obligations can be met

One theorem for each obligation with hypotheses, at boundary values where a clause has a range. -/

/-- A state about to run `6005` at the last fetchable address, 0xFFE. -/
def lastFetch : State := withMem [(0xFFE, 0x60), (0xFFF, 0x05)] { start with pc := 0xFFE }

/-- A state whose V0 is 0x80 and whose I is 0x300, with a sprite row of one pixel there. -/
def spriteState : State := withMem [(0x300, 0x80)] { start with i := 0x300 }

theorem witness_EncodeOfDecodeIsTheOpcode : decode 0xF365 = .ok (.ldVxMem 3) := by decide

theorem witness_UnknownOpcodesByGroup :
    decode 0x0000 = .error (.unknownOpcode 0x0000) ∧ decode 0x00E0 = .ok .cls ∧
    decode 0x5001 = .error (.unknownOpcode 0x5001) ∧ decode 0x5FFF = .error (.unknownOpcode 0x5FFF) ∧
    decode 0x8FF7 = .ok (.subnReg 15 15) ∧ decode 0x8FF8 = .error (.unknownOpcode 0x8FF8) ∧
    decode 0x8FFD = .error (.unknownOpcode 0x8FFD) ∧ decode 0x8FFE = .ok (.shlReg 15 15) ∧
    decode 0x8FFF = .error (.unknownOpcode 0x8FFF) ∧ decode 0x9001 = .error (.unknownOpcode 0x9001) ∧
    decode 0xE09D = .error (.unknownOpcode 0xE09D) ∧ decode 0xE0A1 = .ok (.sknp 0) ∧
    decode 0xF066 = .error (.unknownOpcode 0xF066) ∧ decode 0xF065 = .ok (.ldVxMem 0) := by decide

theorem witness_DecodeFollowsTheOpcodeMap : decode 0x801E = .ok (.shlReg 0 1) ∧
    ∀ r ∈ opcodeMap, r.selects 0x801F = false := by decide

theorem witness_StepRunsTheDecodedInstruction : Enabled lastFetch ∧ lastFetch.pc.toNat ≤ 4094 ∧
    decode (opcodeAtPc lastFetch) = .ok (.ldImm 0 5) :=
  ⟨⟨rfl, by decide⟩, by decide, by decide⟩

theorem witness_StepInHaltedChangesNothing :
    ({ start with run := .halted, haltReason := some .unknownOpcode } : State).run = .halted := rfl

theorem witness_SingleStepGate :
    ((stepping true false start).inputs.stepMode = true ∧ (stepping true false start).stepReq = false) ∧
    ((stepping true true start).run = .running ∧ (stepping true true start).inputs.stepMode = true ∧
      (stepping true true start).stepReq = true ∧ ∃ t, step (stepping true true start) = .next t) ∧
    (start.inputs.stepMode = false ∧ ∃ t, step start = .next t) :=
  ⟨⟨rfl, rfl⟩, ⟨rfl, rfl, rfl, _, rfl⟩, rfl, _, rfl⟩

theorem witness_FetchOutOfBoundsHalts :
    Enabled { start with pc := 0x0FFF } ∧ 4095 ≤ ({ start with pc := 0x0FFF } : State).pc.toNat :=
  ⟨⟨rfl, by decide⟩, by decide⟩

theorem witness_UnknownOpcodeHaltsOrIsReported :
    (Enabled { start with pc := 0xFFE } ∧ ({ start with pc := 0xFFE } : State).pc.toNat ≤ 4094 ∧
      decode (opcodeAtPc { start with pc := 0xFFE }) =
        .error (.unknownOpcode (opcodeAtPc { start with pc := 0xFFE })) ∧
      start.inputs.haltOnUnknown = true) ∧
    (Enabled (tolerant start) ∧ (tolerant start).pc.toNat ≤ 4094 ∧
      decode (opcodeAtPc (tolerant start)) = .error (.unknownOpcode (opcodeAtPc (tolerant start))) ∧
      (tolerant start).inputs.haltOnUnknown = false) :=
  ⟨⟨⟨rfl, by decide⟩, by decide, by decide, rfl⟩, ⟨rfl, by decide⟩, by decide, by decide, rfl⟩

theorem witness_StepEmitsAtMostOneReport :
    (∃ t, step { start with pc := 0x0FFF } = .next t ∧ t.reports = [⟨.fetchOutOfBounds, 0x0FFF⟩]) ∧
    (∃ t, step start = .next t ∧ t.reports = [⟨.unknownOpcode, 0⟩]) ∧
    (∃ t, step (withMem [(0x201, 0xEE)] start) = .next t ∧ t.reports = [⟨.stackUnderflow, 0x00EE⟩]) ∧
    (∃ t, step (withMem [(0x200, 0x23)] { start with sp := 16 }) = .next t ∧
      t.reports = [⟨.stackOverflow, 0x2300⟩]) ∧
    (∃ t, step lastFetch = .next t ∧ t.reports = []) :=
  ⟨⟨_, rfl, by decide⟩, ⟨_, rfl, by decide⟩, ⟨_, rfl, by decide⟩, ⟨_, rfl, by decide⟩, _, rfl, by decide⟩

theorem witness_HaltingIsPrecise :
    (∃ t, ({ start with pc := 0x0FFF } : State).run = .running ∧
      step { start with pc := 0x0FFF } = .next t ∧ t.run = .halted) ∧
    (∃ t, start.run = .running ∧ step start = .next t ∧ t.run = .halted) :=
  ⟨⟨_, rfl, rfl, by decide⟩, _, rfl, rfl, by decide⟩

theorem witness_HaltedIsTerminal : ∃ t,
    ({ start with run := .halted, haltReason := some .unknownOpcode } : State).run = .halted ∧
    (∀ rom, HostOp.reset rom ∉ [.step, .updateKeys 3, .tickTimers, .consumeFrame, .step]) ∧
    applyAll [.step, .updateKeys 3, .tickTimers, .consumeFrame, .step]
      { start with run := .halted, haltReason := some .unknownOpcode } = .next t :=
  ⟨_, rfl, by simp, rfl⟩

theorem witness_StepKeepsTheInvariant : ∃ t, StateInv lastFetch ∧ step lastFetch = .next t :=
  ⟨_, ⟨by decide, by decide, by decide, by decide⟩, rfl⟩

theorem witness_OperationsKeepTheInvariant : ∃ t, StateInv lastFetch ∧
    applyAll [.step, .step, .reset none, .requestAdvance] lastFetch = .next t :=
  ⟨_, ⟨by decide, by decide, by decide, by decide⟩, rfl⟩

theorem witness_InstructionsWriteOnlyTheirRegisters : ∃ t,
    exec (.addReg 0 1) (withV [(0, 0xF0), (1, 0x20)] start) = .next t ∧
    t.reg 0 ≠ (withV [(0, 0xF0), (1, 0x20)] start).reg 0 ∧
    t.reg vf ≠ (withV [(0, 0xF0), (1, 0x20)] start).reg vf :=
  ⟨_, rfl, by decide, by decide⟩

theorem witness_OnlyDisplayInstructionsChangeTheScreen :
    (∃ t, exec .cls start = .next t ∧ t.dirty ≠ start.dirty) ∧
    (∃ t, exec (.drw 0 0 1) spriteState = .next t ∧ t.fb ≠ spriteState.fb) :=
  ⟨⟨_, rfl, by decide⟩, _, rfl, by decide⟩

theorem witness_OnlyStoresChangeMemory :
    (∃ t, exec (.ldB 0) (withV [(0, 0xFF)] { start with i := 0x400 }) = .next t ∧
      t.loadByte 0x402 ≠ (withV [(0, 0xFF)] { start with i := 0x400 }).loadByte 0x402) ∧
    (∃ t, exec (.ldMemVx 15) (withV [(15, 0xFF)] { start with i := 0x400 }) = .next t ∧
      t.loadByte 0x40F ≠ (withV [(15, 0xFF)] { start with i := 0x400 }).loadByte 0x40F) :=
  ⟨⟨_, rfl, by decide⟩, _, rfl, by decide⟩

theorem witness_OnlyCallAndReturnTouchTheStack :
    (∃ t, exec (.call 0x300) start = .next t ∧ t.stack ≠ start.stack ∧ t.sp ≠ start.sp) ∧
    (∃ t, exec .ret start = .next t ∧ t.run ≠ start.run ∧ t.haltReason ≠ start.haltReason ∧
      t.reports ≠ start.reports) :=
  ⟨⟨_, rfl, by decide, by decide⟩, _, rfl, by decide, by decide, by decide⟩

theorem witness_InstructionWriteRights :
    (∃ t, exec (.ldDtVx 3) (withV [(3, 9)] { start with dirty := true }) = .next t ∧ t.dt ≠ start.dt ∧
      t.dirty = true) ∧
    (∃ t, exec (.ldStVx 3) (withV [(3, 9)] start) = .next t ∧ t.st ≠ start.st) ∧
    (∃ t, exec (.ldI 0x300) start = .next t ∧ t.i ≠ start.i) ∧
    (∃ t, exec (.addI 3) (withV [(3, 9)] start) = .next t ∧ t.i ≠ start.i) ∧
    (∃ t, exec (.ldF 3) (withV [(3, 9)] start) = .next t ∧ t.i ≠ start.i) ∧
    (∃ t, exec (.ldMemVx 0) (advancing start) = .next t ∧ t.i ≠ start.i) ∧
    (∃ t, exec (.ldVxMem 15) (advancing start) = .next t ∧ t.i ≠ start.i) :=
  ⟨⟨_, rfl, by decide, by decide⟩, ⟨_, rfl, by decide⟩, ⟨_, rfl, by decide⟩, ⟨_, rfl, by decide⟩,
    ⟨_, rfl, by decide⟩, ⟨_, rfl, by decide⟩, _, rfl, by decide⟩

theorem witness_OnlyRandomReadsTheRandomSource : ∀ x nn, Instr.cls ≠ .rnd x nn := by simp

theorem witness_OldVxHasNoInfluence : (15 : Reg) ≠ 0 ∧
    ∃ k < 16, ({ start with keyPrev := 0x8000 } : State).keyUpEdge k = true :=
  ⟨by decide, 15, by decide, by decide⟩

theorem witness_CallPushesPcOrOverflows : ({ start with sp := 15 } : State).sp.val < 16 ∧
    ({ start with sp := 16 } : State).sp.val = 16 := by decide

theorem witness_ReturnPopsPcOrUnderflows : (15 : Fin 16).val + 1 = ({ start with sp := 16 } : State).sp.val ∧
    (0 : Fin 16).val + 1 = ({ start with sp := 1 } : State).sp.val ∧ start.sp.val = 0 := by decide

theorem witness_ReturnAfterCallComesBack : start.sp.val < 16 ∧ ({ start with sp := 15 } : State).sp.val < 16 := by
  decide

theorem witness_SeventeenthCallOverflows : start.sp.val = 0 ∧
    (List.replicate 16 (0x200 : Addr)).length = 16 := by decide

theorem witness_LogicClearsVf : (0 : Reg) ≠ vf ∧ (14 : Reg) ≠ vf := by decide
theorem witness_AddSetsCarry : (0 : Reg) ≠ vf ∧ (14 : Reg) ≠ vf := by decide
theorem witness_SubtractSetsNotBorrow : (0 : Reg) ≠ vf ∧ (14 : Reg) ≠ vf := by decide
theorem witness_ShiftMovesVyIntoVx : (0 : Reg) ≠ vf ∧ (14 : Reg) ≠ vf := by decide

theorem witness_RandomIsMaskedAndConsumed :
    (start.supplyRand [0xB7]).rand = 0xB7 :: [] ∧ start.rand = [] := by decide

theorem witness_RegistersAreDumped : (0 : Reg) ≤ 0 ∧ (15 : Reg) ≤ 15 := by decide
theorem witness_RegistersAreLoaded : (0 : Reg) ≤ 0 ∧ (15 : Reg) ≤ 15 := by decide
theorem witness_LoadAfterDumpRestoresRegisters : (0 : Reg) ≤ 0 ∧ (15 : Reg) ≤ 15 := by decide

theorem witness_NextFetchSeesStoredBytes : ∃ t u,
    exec (.ldMemVx 1) { start with i := 0xFFE, pc := 0xFFE } = .next t ∧
    exec (.ldMemVx 1) { start with i := 0x200 } = .next u ∧
    ({ start with pc := 0xFFE } : State).pc.toNat ≤ 4094 ∧ start.pc.toNat ≤ 4094 ∧
    (({ start with i := 0xFFE } : State).ea 0).toNat = ({ start with pc := 0xFFE } : State).pc.toNat ∧
    (({ start with i := 0x200 } : State).ea 1).toNat = start.pc.toNat + 1 :=
  ⟨_, _, rfl, rfl, by decide, by decide, by decide, by decide⟩

theorem witness_DrawFlipsExactlyTheSpritePixels :
    SpriteSets spriteState 0 0 1 0 0 ∧ ¬SpriteSets spriteState 0 0 1 1 0 := by
  constructor
  · exact ⟨0, 0, by decide, by decide, by decide, by decide, by decide⟩
  · rintro ⟨r, c, hr, hc, hx, hy, hb⟩
    have h1 : c = 1 := by
      have : (spriteState.reg 0).toNat % 64 = 0 := by decide
      omega
    have h2 : r = 0 := by
      have : (spriteState.reg 0).toNat % 32 = 0 := by decide
      omega
    subst h1 h2
    exact absurd hb (by decide)

theorem witness_DrawingTwiceRestoresTheScreen : ∃ t u, exec (.drw 0 0 1) spriteState = .next t ∧
    exec (.drw 0 0 1) t = .next u ∧ (t.reg 0).toNat % 64 = (spriteState.reg 0).toNat % 64 ∧
    (t.reg 0).toNat % 32 = (spriteState.reg 0).toNat % 32 ∧ u.reg vf = 1 :=
  ⟨_, _, rfl, rfl, by decide, by decide, by decide⟩

theorem witness_WaitKeyCompletesOnLowestEdge :
    (∀ j < 15, ¬(({ start with keyPrev := 0x8000 } : State).keyPrev.getLsbD j = true ∧
      ({ start with keyPrev := 0x8000 } : State).keyCur.getLsbD j = false)) ∧
    ({ start with keyPrev := 0x8000 } : State).keyPrev.getLsbD 15 = true ∧
    ({ start with keyPrev := 0x0001 } : State).keyPrev.getLsbD 0 = true ∧
    start.keyCur.getLsbD 15 = false ∧ start.keyCur.getLsbD 0 = false ∧
    (∀ k < 16, ¬(start.keyPrev.getLsbD k = true ∧ start.keyCur.getLsbD k = false)) := by decide

theorem witness_WaitKeyPollsInPlace :
    (withMem [(0x200, 0xF3), (0x201, 0x0A)] start).run = .running ∧
    (withMem [(0x200, 0xF3), (0x201, 0x0A)] start).inputs.stepMode = false ∧
    (withMem [(0x200, 0xF3), (0x201, 0x0A)] start).pc.toNat ≤ 4094 ∧
    decode (opcodeAtPc (withMem [(0x200, 0xF3), (0x201, 0x0A)] start)) = .ok (.ldVxK 3) ∧
    (∀ k < 16, ¬((withMem [(0x200, 0xF3), (0x201, 0x0A)] start).keyPrev.getLsbD k = true ∧
      (withMem [(0x200, 0xF3), (0x201, 0x0A)] start).keyCur.getLsbD k = false)) := by decide

theorem witness_ToneSoundsOneTickLessThanSt : ∃ t,
    exec (.ldStVx 3) (withV [(3, 7)] start) = .next t ∧ 1 ≤ 1 ∧ (State.tickTimers^[1] t).tone = true :=
  ⟨_, rfl, by decide, by decide⟩

theorem witness_ConsumeFrameAndRequestAdvance :
    ({ start with dirty := true } : State).dirty = true ∧ start.dirty = false := by decide

theorem witness_ResetLoadsTheRom : (List.replicate 3584 (0x12 : Byte)).length ≤ 3584 ∧
    3583 < (List.replicate 3584 (0x12 : Byte)).length ∧
    ¬(0x200 ≤ (0x1FF : Addr).toNat ∧ (0x1FF : Addr).toNat < 0x200 + 3584) ∧
    ¬(start.build.fontBase.val ≤ (0x050 : Addr).toNat ∧ (0x050 : Addr).toNat < start.build.fontBase.val + 80) := by
  rw [List.length_replicate]; decide

theorem witness_FailedLoadHalts :
    (∃ rom : Option (List Byte), rom = none ∧ Condition.romUnreadable = .romUnreadable) ∧
    (∃ bytes : List Byte, some (List.replicate 3585 (0 : Byte)) = some bytes ∧ 3584 < bytes.length) :=
  ⟨⟨none, rfl, rfl⟩, _, rfl, by rw [List.length_replicate]; decide⟩

theorem witness_ResetStateValues : 80 ≤ (0x050 : Addr).toNat ∧ 80 ≤ (0xFFF : Addr).toNat := by decide

end Sys2Proof.Tests
end

section
/-! SUPPORT. What a step and a sequence of operations can answer, said once
(spec/45_execution_cycle.md R161, spec/00_scope.md R13). -/

namespace Sys2Proof.Machine

/-- Everything `step` can answer: the state itself, a failed fetch, an unknown opcode, or the
instruction's meaning on the fetched state (R161). -/
theorem step_cases (s : State) :
    (s.gateOpen = false ∧ step s = .next s) ∨
    (s.gateOpen = true ∧ s.fetchable = false ∧ step s = .next s.fetchFails) ∨
    (s.gateOpen = true ∧ s.fetchable = true ∧
      step s = .next (s.fetched.unknown (s.opcodeAt s.pc))) ∨
    (s.gateOpen = true ∧ s.fetchable = true ∧
      ∃ i, decode (s.opcodeAt s.pc) = .ok i ∧ step s = exec i s.fetched) := by
  rcases s.front_cases with ⟨hg, hd⟩ | ⟨hg, hf, hd⟩ | ⟨hg, hf, hd⟩ | ⟨hg, hf, i, hi, hr⟩
  · exact .inl ⟨hg, step_of_done s _ hd⟩
  · exact .inr (.inl ⟨hg, hf, step_of_done s _ hd⟩)
  · exact .inr (.inr (.inl ⟨hg, hf, step_of_done s _ hd⟩))
  · exact .inr (.inr (.inr ⟨hg, hf, i, hi, step_of_run s i _ hr⟩))

/-! ### The meanings that ask the stack or the keys -/

theorem exec_ret_of_none {s : State} (h : s.pop = none) :
    exec .ret s = .next (s.raise .stackUnderflow (encode .ret)) := by
  simp only [exec, execRet, h]

theorem exec_ret_of_some {s t : State} {w : Word} (h : s.pop = some (w, t)) :
    exec .ret s = .next (t.setPc w) := by
  simp only [exec, execRet, h]

theorem exec_call_of_none {s : State} (nnn : Addr) (h : s.push s.pc = none) :
    exec (.call nnn) s = .next (s.raise .stackOverflow (encode (.call nnn))) := by
  simp only [exec, execCall, h]

theorem exec_call_of_some {s t : State} (nnn : Addr) (h : s.push s.pc = some t) :
    exec (.call nnn) s = .next (t.setPc (zextAddr nnn)) := by
  simp only [exec, execCall, h]

theorem exec_ldVxK_of_none {s : State} (x : Reg) (h : s.releasedKey = none) :
    exec (.ldVxK x) s = .next (s.setPc (s.pc - 2)) := by
  simp only [exec, execLdVxK, h]

theorem exec_ldVxK_of_some {s : State} {k : Nat} (x : Reg) (h : s.releasedKey = some k) :
    exec (.ldVxK x) s = .next (s.setReg x (BitVec.ofNat 8 k)) := by
  simp only [exec, execLdVxK, h]

/-! ### Reset (spec/70_reset_and_hazards.md R210 to R212) -/

/-- What every reset starts from: the reset values, with the parameters, the inputs, the random
source and the past outputs kept. -/
def State.cleared (s : State) : State :=
  { State.reset with
    build := s.build, inputs := s.inputs, rand := s.rand, randDrawn := s.randDrawn,
    reports := s.reports, frames := s.frames }

theorem State.resetWith_none (s : State) :
    s.resetWith none = s.cleared.raise .romUnreadable 0 := rfl

theorem State.resetWith_of_long (s : State) (rom : List Byte) (h : 3584 < rom.length) :
    s.resetWith (some rom) = s.cleared.raise .romTooLarge 0 := if_pos h

theorem State.resetWith_of_fits (s : State) (rom : List Byte) (h : rom.length ≤ 3584) :
    s.resetWith (some rom) =
      { s.cleared with mem := Memory.writeBytes s.build rom progBase [] } := if_neg h.not_gt

/-! ### Runs -/

/-- The induction over a run, packaged: what each operation of the list keeps, the list keeps. -/
theorem applyAll_keeps (P : State → Prop) (os : List HostOp) (s t : State)
    (hop : ∀ o ∈ os, ∀ u v, P u → o.apply u = .next v → P v) (hs : P s)
    (h : applyAll os s = .next t) : P t := by
  induction os generalizing s with
  | nil => exact Host.Outcome.next.inj h ▸ hs
  | cons o os ih =>
    rw [applyAll] at h
    split at h
    · next u hu =>
      exact ih u (fun o' ho' => hop o' (.tail _ ho')) (hop o (.head _) s u hs hu) h
    · cases h
    · cases h

end Sys2Proof.Machine
end

section
/-! SUPPORT. The invariant of 10_state.md R40, operation by operation. -/

namespace Sys2Proof.Machine

variable {s t : State}

/-- The invariant reads MEM, PC, STACK, SP, RUN and HALT_REASON only. -/
theorem StateInv.congr (h : StateInv s) (hb : t.build = s.build := by simp)
    (hm : t.mem = s.mem := by simp) (hpc : t.pc = s.pc := by simp)
    (hk : t.stack = s.stack := by simp) (hsp : t.sp = s.sp := by simp)
    (hr : t.run = s.run := by simp) (hc : t.haltReason = s.haltReason := by simp) :
    StateInv t := by
  simpa only [StateInv, hb, hm, hpc, hk, hsp, hr, hc] using h

theorem StateInv.setPc (h : StateInv s) {w : Word} (hw : w.toNat ≤ 0x10FE) :
    StateInv (s.setPc w) := by
  obtain ⟨hmem, -, hstack, hhalt⟩ := h
  exact ⟨hmem, hw, hstack, hhalt⟩

theorem StateInv.skipIf (h : StateInv s) (hpc : s.pc.toNat ≤ 4096) (c : Bool) :
    StateInv (s.skipIf c) := by
  cases c with
  | false => exact h
  | true => exact h.setPc (by bv_omega)

theorem StateInv.storeByte (h : StateInv s) (a : Addr) (x : Byte) : StateInv (s.storeByte a x) := by
  obtain ⟨hmem, hpc, hstack, hhalt⟩ := h
  exact ⟨State.storeByte_wf s a x hmem, hpc, hstack, hhalt⟩

theorem StateInv.dumpRegs (h : StateInv s) (n : Nat) : StateInv (s.dumpRegs n) := by
  induction n with
  | zero => exact h
  | succ n ih => exact ih.storeByte _ _

theorem StateInv.advanceIndex (h : StateInv s) (n : Nat) : StateInv (s.advanceIndex n) :=
  h.congr

theorem StateInv.raise (h : StateInv s) (c : Condition) (info : Word) :
    StateInv (s.raise c info) := by
  obtain ⟨hmem, hpc, hstack, -⟩ := h
  exact ⟨hmem, hpc, hstack, by simp⟩

theorem StateInv.push (h : StateInv s) {w : Word} (hw : w.toNat ≤ 4096) (ht : s.push w = some t) :
    StateInv t := by
  obtain ⟨hmem, hpc, hstack, hhalt⟩ := h
  unfold State.push at ht
  split at ht
  · next hsp =>
    obtain rfl := Option.some.inj ht
    refine ⟨hmem, hpc, fun k hk => ?_, hhalt⟩
    simp only [Vector.getElem_set]
    split
    · exact hw
    · exact hstack k (by simp only at hk; omega)
  · cases ht

/-- A pop answers a valid stack entry, and the entries below it stay valid. -/
theorem StateInv.pop (h : StateInv s) {w : Word} (ht : s.pop = some (w, t)) :
    w.toNat ≤ 4096 ∧ StateInv t := by
  obtain ⟨hmem, hpc, hstack, hhalt⟩ := h
  unfold State.pop at ht
  split at ht
  · next hsp =>
    obtain ⟨rfl, rfl⟩ := Prod.mk.inj (Option.some.inj ht)
    have hle : s.sp.val ≤ 16 := Nat.le_of_lt_succ s.sp.isLt
    exact ⟨hstack ⟨s.sp.val - 1, by omega⟩ (by simp only; omega),
      hmem, hpc, fun k hk => hstack k (by simp only at hk; omega), hhalt⟩
  · cases ht

/-- The fetch leaves PC between 2 and 4096 (R164). -/
theorem State.fetched_pc_bounds (hf : s.fetchable = true) :
    2 ≤ s.fetched.pc.toNat ∧ s.fetched.pc.toNat ≤ 4096 := by
  have hlt : s.pc.toNat < 4095 := by simpa [State.fetchable] using hf
  rw [State.fetched_pc]
  constructor <;> bv_omega

theorem StateInv.takeRequest (h : StateInv s) : StateInv s.takeRequest :=
  h.congr

theorem StateInv.fetched (h : StateInv s) (hf : s.fetchable = true) : StateInv s.fetched := by
  have hpc : (s.pc + 2).toNat ≤ 4096 := s.fetched_pc ▸ (State.fetched_pc_bounds hf).2
  exact h.takeRequest.setPc (by simpa using hpc.trans (by decide))

theorem StateInv.unknown (h : StateInv s) (op : Word) : StateInv (s.unknown op) := by
  unfold State.unknown
  split
  · exact h.raise _ _
  · exact h

/-- Executing an instruction keeps the invariant, once the fetch has left PC between 2 and 4096: a
skip then ends at most at 4098, a poll of FX0A rewinds without wrapping, and CALL pushes a valid
return address. -/
theorem exec_keeps_inv (h : StateInv s) (hlo : 2 ≤ s.pc.toNat) (hhi : s.pc.toNat ≤ 4096)
    (i : Instr) : ∃ t, exec i s = .next t ∧ StateInv t := by
  cases i with
  | ret =>
    cases hp : s.pop with
    | none => exact ⟨_, exec_ret_of_none hp, h.raise _ _⟩
    | some p =>
      obtain ⟨hw, ht⟩ := h.pop hp
      exact ⟨_, exec_ret_of_some hp, ht.setPc (hw.trans (by decide))⟩
  | call nnn =>
    cases hp : s.push s.pc with
    | none => exact ⟨_, exec_call_of_none nnn hp, h.raise _ _⟩
    | some t =>
      exact ⟨_, exec_call_of_some nnn hp, (h.push hhi hp).setPc (by unfold zextAddr; bv_omega)⟩
  | jp nnn => exact ⟨_, rfl, h.setPc (by unfold zextAddr; bv_omega)⟩
  | jpV0 nnn => exact ⟨_, rfl, h.setPc (by unfold zextAddr zextByte; bv_omega)⟩
  | seImm _ _ | sneImm _ _ | seReg _ _ | sneReg _ _ | skp _ | sknp _ =>
    exact ⟨_, rfl, h.skipIf hhi _⟩
  | ldVxK x =>
    cases hk : s.releasedKey with
    | none => exact ⟨_, exec_ldVxK_of_none x hk, h.setPc (by bv_omega)⟩
    | some k => exact ⟨_, exec_ldVxK_of_some x hk, h.congr⟩
  | ldB x => exact ⟨_, rfl, ((h.storeByte _ _).storeByte _ _).storeByte _ _⟩
  | ldMemVx x => exact ⟨_, rfl, (h.dumpRegs _).advanceIndex _⟩
  | rnd _ _ | ldVxMem _ => exact ⟨_, rfl, h.congr⟩
  | cls | ldImm _ _ | addImm _ _ | ldReg _ _ | orReg _ _ | andReg _ _ | xorReg _ _ | addReg _ _
  | subReg _ _ | shrReg _ _ | subnReg _ _ | shlReg _ _ | drw _ _ _ | ldVxDt _ | ldDtVx _ | ldStVx _
  | ldI _ | addI _ | ldF _ => exact ⟨_, rfl, h⟩

theorem step_keeps_inv (h : StateInv s) (ht : step s = .next t) : StateInv t := by
  rcases step_cases s with ⟨-, hs⟩ | ⟨-, -, hs⟩ | ⟨-, hf, hs⟩ | ⟨-, hf, i, -, hs⟩
  · obtain rfl := Host.Outcome.next.inj (hs.symm.trans ht)
    exact h
  · obtain rfl := Host.Outcome.next.inj (hs.symm.trans ht)
    exact h.takeRequest.raise _ _
  · obtain rfl := Host.Outcome.next.inj (hs.symm.trans ht)
    exact (h.fetched hf).unknown _
  · obtain ⟨hlo, hhi⟩ := State.fetched_pc_bounds hf
    obtain ⟨u, hu, hinv⟩ := exec_keeps_inv (h.fetched hf) hlo hhi i
    obtain rfl := Host.Outcome.next.inj (hu.symm.trans (hs.symm.trans ht))
    exact hinv

theorem State.cleared_inv (s : State) : StateInv s.cleared :=
  ⟨rfl, show (BitVec.ofNat 16 progBase).toNat ≤ 0x10FE by decide,
    fun _ hk => absurd hk (Nat.not_lt_zero _), by simp [State.cleared, State.reset]⟩

/-- After reset memory is canonical, PC is 0x200, the stack is empty, and the core is Halted exactly
when the load failed (70_reset_and_hazards.md R210, R212). -/
theorem State.resetWith_inv (s : State) (rom : Option (List Byte)) : StateInv (s.resetWith rom) := by
  cases rom with
  | none => rw [s.resetWith_none]; exact s.cleared_inv.raise _ _
  | some rom =>
    by_cases hfits : rom.length ≤ 3584
    · obtain ⟨hmem, hpc, hstack, hhalt⟩ := s.cleared_inv
      rw [s.resetWith_of_fits rom hfits]
      exact ⟨Memory.wf_writeBytes s.build rom [] progBase hmem
        (by simp only [progBase, memSize]; omega), hpc, hstack, hhalt⟩
    · rw [s.resetWith_of_long rom (by omega)]
      exact s.cleared_inv.raise _ _

theorem StateInv.consumeFrame (h : StateInv s) : StateInv s.consumeFrame := by
  unfold State.consumeFrame
  split
  · exact h
  · exact h

theorem HostOp.apply_keeps_inv (o : HostOp) (h : StateInv s) (ht : o.apply s = .next t) :
    StateInv t := by
  cases o with
  | reset rom => exact Host.Outcome.next.inj ht ▸ s.resetWith_inv rom
  | step => exact step_keeps_inv h ht
  | consumeFrame => exact Host.Outcome.next.inj ht ▸ h.consumeFrame
  | updateKeys _ | tickTimers | requestAdvance => exact Host.Outcome.next.inj ht ▸ h

end Sys2Proof.Machine
end

section
/-! The invariant of 10_state.md R40: the statements. -/

namespace Sys2Proof.Machine

/-- Settles O16: the cases of a step, with the fetch bounding PC before the instruction runs. -/
theorem stepKeepsTheInvariant : Obligations.StepKeepsTheInvariant := fun _ _ => step_keeps_inv

/-- Settles O17, by induction on the list of operations. -/
theorem operationsKeepTheInvariant : Obligations.OperationsKeepTheInvariant :=
  ⟨fun os s t => applyAll_keeps StateInv os s t fun o _ _ _ => o.apply_keeps_inv,
    fun rom s => s.resetWith_inv rom⟩

/-- Settles O15: the reset state is what the reset operation leaves for an empty ROM. -/
theorem resetMeetsTheInvariant : Obligations.ResetMeetsTheInvariant :=
  State.reset.resetWith_inv (some [])

end Sys2Proof.Machine
end

section
/-! SUPPORT. What each operation leaves unchanged, and with it the frame of every instruction, said
once (spec/10_state.md R45). -/

namespace Sys2Proof.Machine

variable {c : Touched} {s t : State}

/-! ### Operation by operation, for any frame that names what the operation writes -/

theorem Untouched.trans {u : State} (h : Untouched c s t) (h' : Untouched c t u) :
    Untouched c s u := by
  simp_all [Untouched]

theorem State.setReg_untouched (s : State) {r : Reg} (x : Byte) (hr : r ∈ c.regs) :
    Untouched c s (s.setReg r x) := by
  have hne : ∀ r' ∉ c.regs, r ≠ r' := fun r' hr' e => hr' (e ▸ hr)
  simp +contextual [Untouched, hne]

theorem State.storeByte_untouched (s : State) {a : Addr} (x : Byte) (ha : a ∈ c.bytes) :
    Untouched c s (s.storeByte a x) := by
  have hne : ∀ a' ∉ c.bytes, a' ≠ a := fun a' ha' e => ha' (e ▸ ha)
  simp +contextual [Untouched, hne]

theorem State.setI_untouched (s : State) (w : Word) (hi : c.i = true) :
    Untouched c s (s.setI w) := by
  simp [Untouched, hi]

theorem State.setPc_untouched (s : State) (w : Word) (hpc : c.pc = true) :
    Untouched c s (s.setPc w) := by
  simp [Untouched, hpc]

theorem State.skipIf_untouched (s : State) (b : Bool) (hpc : c.pc = true) :
    Untouched c s (s.skipIf b) := by
  simp [Untouched, hpc]

theorem State.setDt_untouched (s : State) (x : Byte) (hdt : c.dt = true) :
    Untouched c s (s.setDt x) := by
  simp [Untouched, hdt]

theorem State.setSt_untouched (s : State) (x : Byte) (hst : c.st = true) :
    Untouched c s (s.setSt x) := by
  simp [Untouched, hst]

theorem State.show_untouched (s : State) (fb : FrameBuffer) (hfb : c.fb = true) :
    Untouched c s (s.show fb) := by
  simp [Untouched, hfb]

theorem State.consumeRand_untouched (s : State) (hr : c.rand = true) :
    Untouched c s s.consumeRand := by
  simp [Untouched, hr]

theorem State.raise_untouched (s : State) (cond : Condition) (info : Word) (hh : c.halt = true) :
    Untouched c s (s.raise cond info) := by
  simp [Untouched, hh]

theorem State.push_untouched {w : Word} (hc : ∀ k : Fin 16, k.val = s.sp.val → k ∈ c.cells)
    (hsp : c.sp = true) (h : s.push w = some t) : Untouched c s t := by
  unfold State.push at h
  split at h
  · obtain rfl := Option.some.inj h
    have hne : ∀ k ∉ c.cells, s.sp.val ≠ k.val := fun k hk e => hk (hc k e.symm)
    simp +contextual [Untouched, hsp, hne, State.reg, State.loadByte]
  · cases h

theorem State.pop_untouched {w : Word} (hsp : c.sp = true) (h : s.pop = some (w, t)) :
    Untouched c s t := by
  unfold State.pop at h
  split at h
  · obtain ⟨-, rfl⟩ := Prod.mk.inj (Option.some.inj h)
    simp [Untouched, hsp, State.reg, State.loadByte]
  · cases h

theorem State.setResult_untouched (s : State) {x : Reg} (r : Byte) (f : Bool) (hx : x ∈ c.regs)
    (hf : vf ∈ c.regs) : Untouched c s (s.setResult x r f) :=
  (s.setReg_untouched r hx).trans (State.setReg_untouched _ _ hf)

theorem State.dumpRegs_untouched (s : State) (n : Nat) (hb : ∀ k < n, s.ea k ∈ c.bytes) :
    Untouched c s (s.dumpRegs n) := by
  induction n with
  | zero => exact .refl s c
  | succ n ih =>
    exact (ih fun k hk => hb k (by omega)).trans (State.storeByte_untouched _ _ (hb n (by omega)))

theorem State.loadRegs_untouched (s : State) (n : Nat) (hr : ∀ k < n, regNum k ∈ c.regs) :
    Untouched c s (s.loadRegs n) := by
  induction n with
  | zero => exact .refl s c
  | succ n ih =>
    exact (ih fun k hk => hr k (by omega)).trans (State.setReg_untouched _ _ (hr n (by omega)))

theorem State.advanceIndex_untouched (s : State) (n : Nat)
    (hi : s.inputs.advanceI = true → c.i = true) : Untouched c s (s.advanceIndex n) := by
  unfold State.advanceIndex
  split
  · next ha => exact s.setI_untouched _ (hi ha)
  · exact .refl s c

/-! ### The frame of an instruction -/

/-- What an instruction may change, started in `s`: the rows of 10_state.md R45. -/
def touched (s : State) : Instr → Touched
  | .cls => { fb := true }
  | .ret => { sp := true, pc := true, halt := true }
  | .call _ =>
    { cells := (List.finRange 16).filter (fun k => k.val == s.sp.val), sp := true, pc := true,
      halt := true }
  | .jp _ | .jpV0 _ | .seImm _ _ | .sneImm _ _ | .seReg _ _ | .sneReg _ _ | .skp _ | .sknp _ =>
    { pc := true }
  | .ldVxK x => { regs := [x], pc := true }
  | .ldDtVx _ => { dt := true }
  | .ldStVx _ => { st := true }
  | .ldI _ | .addI _ | .ldF _ => { i := true }
  | .ldB _ => { bytes := [s.ea 0, s.ea 1, s.ea 2] }
  | .ldMemVx x => { bytes := (List.range (x.val + 1)).map s.ea, i := s.inputs.advanceI }
  | .ldVxMem x => { regs := regsWritten (.ldVxMem x), i := s.inputs.advanceI }
  | .rnd x _ => { regs := [x], rand := true }
  | .drw _ _ _ => { regs := [vf], fb := true }
  | .ldImm x _ | .addImm x _ | .ldReg x _ | .ldVxDt x => { regs := [x] }
  | .orReg x _ | .andReg x _ | .xorReg x _ | .addReg x _ | .subReg x _ | .shrReg x _
  | .subnReg x _ | .shlReg x _ => { regs := [x, vf] }

/-- Every execution completes and changes nothing but what its row of R45 names. -/
theorem exec_frame (i : Instr) (s : State) :
    ∃ t, exec i s = .next t ∧ Untouched (touched s i) s t := by
  cases i with
  | cls => exact ⟨_, rfl, s.show_untouched _ rfl⟩
  | ret =>
    cases hp : s.pop with
    | none => exact ⟨_, exec_ret_of_none hp, s.raise_untouched _ _ rfl⟩
    | some p =>
      exact ⟨_, exec_ret_of_some hp, (State.pop_untouched rfl hp).trans (State.setPc_untouched _ _ rfl)⟩
  | call nnn =>
    cases hp : s.push s.pc with
    | none => exact ⟨_, exec_call_of_none nnn hp, s.raise_untouched _ _ rfl⟩
    | some t =>
      have hcell : ∀ k : Fin 16, k.val = s.sp.val → k ∈ (touched s (.call nnn)).cells := by
        simp [touched]
      exact ⟨_, exec_call_of_some nnn hp,
        (State.push_untouched hcell rfl hp).trans (State.setPc_untouched _ _ rfl)⟩
  | jp _ | jpV0 _ => exact ⟨_, rfl, s.setPc_untouched _ rfl⟩
  | seImm _ _ | sneImm _ _ | seReg _ _ | sneReg _ _ | skp _ | sknp _ =>
    exact ⟨_, rfl, s.skipIf_untouched _ rfl⟩
  | ldVxK x =>
    cases hk : s.releasedKey with
    | none => exact ⟨_, exec_ldVxK_of_none x hk, s.setPc_untouched _ rfl⟩
    | some k => exact ⟨_, exec_ldVxK_of_some x hk, s.setReg_untouched _ (List.mem_singleton_self x)⟩
  | ldDtVx _ => exact ⟨_, rfl, s.setDt_untouched _ rfl⟩
  | ldStVx _ => exact ⟨_, rfl, s.setSt_untouched _ rfl⟩
  | ldI _ | addI _ | ldF _ => exact ⟨_, rfl, s.setI_untouched _ rfl⟩
  | ldB x =>
    have hea : ∀ k < 3, s.ea k ∈ (touched s (.ldB x)).bytes := by
      intro k hk
      interval_cases k <;> simp [touched]
    exact ⟨_, rfl, ((s.storeByte_untouched _ (hea 0 (by decide))).trans
      (State.storeByte_untouched _ _ (hea 1 (by decide)))).trans
      (State.storeByte_untouched _ _ (hea 2 (by decide)))⟩
  | ldMemVx x =>
    have hea : ∀ k < x.val + 1, s.ea k ∈ (touched s (.ldMemVx x)).bytes := fun k hk =>
      List.mem_map_of_mem (List.mem_range.mpr hk)
    exact ⟨_, rfl, (s.dumpRegs_untouched _ hea).trans
      (State.advanceIndex_untouched _ _ (by simp [touched]))⟩
  | ldVxMem x =>
    have hreg : ∀ k < x.val + 1, regNum k ∈ (touched s (.ldVxMem x)).regs := fun k hk =>
      have hle : regNum k ≤ x := by rw [Fin.le_def, regNum_val k (by omega)]; omega
      List.mem_filter.mpr ⟨List.mem_finRange _, decide_eq_true hle⟩
    exact ⟨_, rfl, (s.loadRegs_untouched _ hreg).trans
      (State.advanceIndex_untouched _ _ (by simp [touched]))⟩
  | rnd x _ =>
    exact ⟨_, rfl, (s.consumeRand_untouched rfl).trans
      (State.setReg_untouched _ _ (List.mem_singleton_self x))⟩
  | drw _ _ _ =>
    exact ⟨_, rfl, (s.show_untouched _ rfl).trans
      (State.setReg_untouched _ _ (List.mem_singleton_self vf))⟩
  | ldImm x _ | addImm x _ | ldReg x _ | ldVxDt x =>
    exact ⟨_, rfl, s.setReg_untouched _ (List.mem_singleton_self x)⟩
  | orReg x _ | andReg x _ | xorReg x _ | addReg x _ | subReg x _ | shrReg x _ | subnReg x _
  | shlReg x _ =>
    exact ⟨_, rfl, s.setResult_untouched _ _ (by simp [touched]) (by simp [touched])⟩

theorem exec_untouched {i : Instr} (h : exec i s = .next t) : Untouched (touched s i) s t := by
  obtain ⟨u, hu, hframe⟩ := exec_frame i s
  exact Host.Outcome.next.inj (hu.symm.trans h) ▸ hframe

/-! ### Which instructions a field of the frame names -/

theorem touched_regs (i : Instr) : (touched s i).regs = regsWritten i := by
  cases i <;> rfl

theorem touched_cells_eq_nil {i : Instr} (h : ∀ nnn, i ≠ .call nnn) : (touched s i).cells = [] := by
  cases i with
  | call nnn => exact absurd rfl (h nnn)
  | _ => rfl

theorem touched_sp_halt {i : Instr} (hret : i ≠ .ret) (hcall : ∀ nnn, i ≠ .call nnn) :
    (touched s i).sp = false ∧ (touched s i).halt = false := by
  cases i with
  | ret => exact absurd rfl hret
  | call nnn => exact absurd rfl (hcall nnn)
  | _ => exact ⟨rfl, rfl⟩

theorem touched_dt {i : Instr} (h : (touched s i).dt = true) : ∃ x, i = .ldDtVx x := by
  cases i with
  | ldDtVx x => exact ⟨x, rfl⟩
  | _ => cases h

theorem touched_st {i : Instr} (h : (touched s i).st = true) : ∃ x, i = .ldStVx x := by
  cases i with
  | ldStVx x => exact ⟨x, rfl⟩
  | _ => cases h

theorem touched_i {i : Instr} (h : (touched s i).i = true) :
    (∃ nnn, i = .ldI nnn) ∨ (∃ x, i = .addI x) ∨ (∃ x, i = .ldF x) ∨
      (s.inputs.advanceI = true ∧ ∃ x, i = .ldMemVx x ∨ i = .ldVxMem x) := by
  cases i with
  | ldI nnn => exact .inl ⟨nnn, rfl⟩
  | addI x => exact .inr (.inl ⟨x, rfl⟩)
  | ldF x => exact .inr (.inr (.inl ⟨x, rfl⟩))
  | ldMemVx x => exact .inr (.inr (.inr ⟨h, x, .inl rfl⟩))
  | ldVxMem x => exact .inr (.inr (.inr ⟨h, x, .inr rfl⟩))
  | _ => cases h

theorem touched_fb {i : Instr} (h : (touched s i).fb = true) :
    i = .cls ∨ ∃ x y n, i = .drw x y n := by
  cases i with
  | cls => exact .inl rfl
  | drw x y n => exact .inr ⟨x, y, n, rfl⟩
  | _ => cases h

/-- CLS and DRW set DIRTY; no other instruction changes it (43_display.md R143). -/
theorem exec_keeps_dirty {i : Instr} (h : exec i s = .next t) (hd : s.dirty = true) :
    t.dirty = true := by
  obtain ⟨-, -, -, -, -, -, -, -, hfb, -⟩ := exec_untouched h
  by_cases hi : (touched s i).fb = true
  · rcases touched_fb hi with rfl | ⟨x, y, n, rfl⟩
    · exact Host.Outcome.next.inj h ▸ rfl
    · exact Host.Outcome.next.inj h ▸ rfl
  · exact (hfb (Bool.eq_false_of_not_eq_true hi)).2 ▸ hd

end Sys2Proof.Machine
end

section
/-! SUPPORT. Writing a register twice, and what does not look at the registers
(spec/10_state.md R46). -/

namespace Sys2Proof.Machine

variable (s : State)

/-- The later of two writes to a register is the one that counts. -/
@[simp] theorem State.setReg_setReg (r : Reg) (a b : Byte) :
    (s.setReg r a).setReg r b = s.setReg r b := by
  simp [State.setReg]

@[simp] theorem State.setResult_setReg (x : Reg) (a r : Byte) (f : Bool) :
    (s.setReg x a).setResult x r f = s.setResult x r f := by
  simp [State.setResult]

/-- Drawing a random byte does not look at the registers. -/
theorem State.consumeRand_setReg (r : Reg) (a : Byte) :
    (s.setReg r a).consumeRand = s.consumeRand.setReg r a := by
  cases hr : s.rand <;> simp [State.consumeRand, State.setReg, hr]

@[simp] theorem State.setReg_randByte (r : Reg) (a : Byte) :
    (s.setReg r a).randByte = s.randByte := rfl

@[simp] theorem State.setReg_releasedKey (r : Reg) (a : Byte) :
    (s.setReg r a).releasedKey = s.releasedKey := rfl

end Sys2Proof.Machine
end

section
/-! SUPPORT. What memory holds after reset: the ROM over the font over zeros
(spec/10_state.md R43, R44; spec/20_memory.md R51). -/

namespace Sys2Proof.Machine

/-- Byte `j` of glyph `d` stands at FONT_BASE + 5 d + j. -/
theorem resetByte_glyph (b : Build) (d : Fin 16) (j : Fin 5) :
    resetByte b (b.fontBase.val + 5 * d.val + j.val) = b.fontTable[d.val][j.val] := by
  have hrow : (b.fontBase.val + 5 * d.val + j.val - b.fontBase.val) / 5 = d.val := by omega
  have hcol : (b.fontBase.val + 5 * d.val + j.val - b.fontBase.val) % 5 = j.val := by omega
  simp only [resetByte, hrow, hcol]
  rw [dif_pos (by omega)]

theorem resetByte_outside_font (b : Build) (a : Nat)
    (h : ¬(b.fontBase.val ≤ a ∧ a < b.fontBase.val + 80)) : resetByte b a = 0 := dif_neg h

/-- The memory after a successful reset, byte by byte. -/
theorem State.resetWith_loadByte (s : State) (rom : List Byte) (hfits : rom.length ≤ 3584)
    (a : Addr) : (s.resetWith (some rom)).loadByte a =
      if h : 0x200 ≤ a.toNat ∧ a.toNat < 0x200 + rom.length then rom[a.toNat - 0x200]'(by omega)
      else resetByte s.build a.toNat := by
  rw [s.resetWith_of_fits rom hfits]
  exact Memory.read_writeBytes s.build rom [] progBase a.toNat

theorem State.resetWith_loadByte_rom (s : State) (rom : List Byte) (hfits : rom.length ≤ 3584)
    (j : Nat) (hj : j < rom.length) :
    (s.resetWith (some rom)).loadByte (BitVec.ofNat 12 (0x200 + j)) = rom[j] := by
  have ha : (BitVec.ofNat 12 (0x200 + j)).toNat = 0x200 + j := Nat.mod_eq_of_lt (by omega)
  simp only [s.resetWith_loadByte rom hfits, ha, Nat.add_sub_cancel_left]
  exact dif_pos ⟨by omega, by omega⟩

theorem State.resetWith_loadByte_outside_rom (s : State) (rom : List Byte)
    (hfits : rom.length ≤ 3584) (a : Addr)
    (h : ¬(0x200 ≤ a.toNat ∧ a.toNat < 0x200 + rom.length)) :
    (s.resetWith (some rom)).loadByte a = resetByte s.build a.toNat :=
  (s.resetWith_loadByte rom hfits a).trans (dif_neg h)

/-- The font lies below the program region, so no ROM byte covers it. -/
theorem State.resetWith_loadByte_glyph (s : State) (rom : List Byte) (hfits : rom.length ≤ 3584)
    (d : Fin 16) (j : Fin 5) :
    (s.resetWith (some rom)).loadByte
      (BitVec.ofNat 12 (s.build.fontBase.val + 5 * d.val + j.val)) =
        s.build.fontTable[d.val][j.val] := by
  have ha : (BitVec.ofNat 12 (s.build.fontBase.val + 5 * d.val + j.val)).toNat =
      s.build.fontBase.val + 5 * d.val + j.val := Nat.mod_eq_of_lt (by omega)
  rw [s.resetWith_loadByte_outside_rom rom hfits _ (by omega), ha, resetByte_glyph]

end Sys2Proof.Machine
end

section
/-! What instructions may write and read (spec/10_state.md R38, R45, R46): the statements. -/

namespace Sys2Proof.Machine

/-- Settles O18: the frame names the registers of the instruction's row, and no others change. -/
theorem instructionsWriteOnlyTheirRegisters : Obligations.InstructionsWriteOnlyTheirRegisters := by
  intro i s t r h hne
  obtain ⟨hregs, -⟩ := exec_untouched h
  by_contra hr
  exact hne (hregs r (touched_regs i ▸ hr))

/-- Settles O21: only the rows of CALL and RET name STACK, SP or the run state. -/
theorem onlyCallAndReturnTouchTheStack : Obligations.OnlyCallAndReturnTouchTheStack := by
  intro i s t h
  obtain ⟨-, -, hcells, hsp, -, -, -, -, -, -, hhalt, -⟩ := exec_untouched h
  constructor
  · intro hne
    by_contra hcall
    rw [touched_cells_eq_nil (not_exists.mp hcall)] at hcells
    exact hne (Vector.ext fun k hk => hcells ⟨k, hk⟩ List.not_mem_nil)
  · intro hne
    by_contra hi
    obtain ⟨hret, hcall⟩ := not_or.mp hi
    obtain ⟨hsp', hhalt'⟩ := touched_sp_halt hret (not_exists.mp hcall)
    obtain ⟨hrun, hreason, hreports⟩ := hhalt hhalt'
    simp [hsp hsp', hrun, hreason, hreports] at hne

/-- Settles O22: the pieces no frame ever names, and the rows that name DT, ST and I. -/
theorem instructionWriteRights : Obligations.InstructionWriteRights := by
  intro i s t h
  obtain ⟨-, -, -, -, hi, -, hdt, hst, -, -, -, htone, hcur, hprev, hreq, hframes, hin, hb⟩ :=
    exec_untouched h
  refine ⟨htone, hcur, hprev, hreq, hin, hb, hframes, exec_keeps_dirty h, fun hne => ?_,
    fun hne => ?_, fun hne => ?_⟩
  · exact touched_dt (Bool.eq_true_of_not_eq_false (mt hdt hne))
  · exact touched_st (Bool.eq_true_of_not_eq_false (mt hst hne))
  · exact touched_i (Bool.eq_true_of_not_eq_false (mt hi hne))

/-- Settles O24: each of these meanings writes V[X] from operands other than V[X], so a value put
there before is overwritten. -/
theorem oldVxHasNoInfluence : Obligations.OldVxHasNoInfluence := by
  intro s x a
  refine ⟨fun y hy => ?_, fun nn => ⟨?_, ?_⟩, ?_, fun hedge => ?_⟩
  · have hvy : (s.setReg x a).reg y = s.reg y := by simp [hy.symm]
    refine ⟨?_, ?_, ?_⟩
    · simp only [exec, execShr, hvy, State.setResult_setReg]
    · simp only [exec, execShl, hvy, State.setResult_setReg]
    · simp only [exec, execLdReg, hvy, State.setReg_setReg]
  · simp only [exec, execLdImm, State.setReg_setReg]
  · simp only [exec, execRnd, State.consumeRand_setReg, State.setReg_randByte, State.setReg_setReg]
  · simp only [exec, execLdVxDt, State.setReg_dt, State.setReg_setReg]
  · obtain ⟨k, hk, hup⟩ := hedge
    cases hkey : s.releasedKey with
    | none => exact absurd hup (by simp [s.releasedKey_none.mp hkey k hk])
    | some j =>
      rw [exec_ldVxK_of_some x hkey, exec_ldVxK_of_some x ((s.setReg_releasedKey x a).trans hkey),
        State.setReg_setReg]

end Sys2Proof.Machine
end

section
/-! The state after reset (spec/10_state.md R43, R44): the statements. -/

namespace Sys2Proof.Machine

/-- Settles O57: the ROM, the glyphs, the zero fill, and the reset values. -/
theorem resetLoadsTheRom : Obligations.ResetLoadsTheRom := by
  intro s rom hfits
  refine ⟨s.resetWith_loadByte_rom rom hfits, s.resetWith_loadByte_glyph rom hfits,
    fun a hrom hfont => ?_, ?_⟩
  · rw [s.resetWith_loadByte_outside_rom rom hfits a hrom, resetByte_outside_font _ _ hfont]
  · rw [s.resetWith_of_fits rom hfits]
    rfl

/-- Settles O59: the fields of the reset state; the screen is blank, and the default font ends
at 79. -/
theorem resetStateValues : Obligations.ResetStateValues :=
  ⟨by decide, rfl, rfl, rfl, by decide, rfl, rfl, rfl,
    fun px _ py _ => FrameBuffer.pixel_blank px py, rfl, rfl, rfl, rfl, rfl, rfl, by decide,
    fun a ha => resetByte_outside_font defaultBuild a.toNat
      fun hfont => absurd hfont.2 (Nat.not_lt.mpr ha)⟩

end Sys2Proof.Machine
end

section
/-! SUPPORT. Stores and the bytes of a fetched opcode (spec/20_memory.md R52, R53, R57). -/

namespace Sys2Proof

theorem highByte_bigEndian (hi lo : Byte) : highByte (bigEndian hi lo) = hi := by
  apply BitVec.eq_of_toNat_eq
  simp only [highByte, bigEndian_toNat, BitVec.toNat_ofNat]
  omega

theorem lowByte_bigEndian (hi lo : Byte) : lowByte (bigEndian hi lo) = lo := by
  apply BitVec.eq_of_toNat_eq
  simp only [lowByte, bigEndian_toNat, BitVec.toNat_ofNat]
  omega

end Sys2Proof

namespace Sys2Proof.Machine

variable {s t : State} {a : Addr}

theorem State.highByte_opcodeAt (s : State) {pc : Word} (ha : a.toNat = pc.toNat) :
    highByte (s.opcodeAt pc) = s.loadByte a := by
  rw [State.opcodeAt, highByte_bigEndian, State.loadByte, ha]

theorem State.lowByte_opcodeAt (s : State) {pc : Word} (ha : a.toNat = pc.toNat + 1) :
    lowByte (s.opcodeAt pc) = s.loadByte a := by
  rw [State.opcodeAt, lowByte_bigEndian, State.loadByte, ha]

theorem touched_bytes {i : Instr} (h : a ∈ (touched s i).bytes) :
    (∃ x, i = .ldB x ∧ ∃ k < 3, a = s.ea k) ∨
      ∃ x : Reg, i = .ldMemVx x ∧ ∃ k ≤ x.val, a = s.ea k := by
  cases i with
  | ldB x =>
    have hthree : a = s.ea 0 ∨ a = s.ea 1 ∨ a = s.ea 2 := by simpa [touched] using h
    rcases hthree with h0 | h1 | h2
    · exact .inl ⟨x, rfl, 0, by decide, h0⟩
    · exact .inl ⟨x, rfl, 1, by decide, h1⟩
    · exact .inl ⟨x, rfl, 2, by decide, h2⟩
  | ldMemVx x =>
    obtain ⟨k, hk, rfl⟩ := List.mem_map.mp h
    exact .inr ⟨x, rfl, k, Nat.le_of_lt_succ (List.mem_range.mp hk), rfl⟩
  | _ => exact absurd h List.not_mem_nil

/-- FX55 stores V[r] at ea(r), each r at most X, whatever ADVANCE_I is
(42_index_memory.md R134). -/
theorem exec_ldMemVx_loadByte {x r : Reg} (h : exec (.ldMemVx x) s = .next t) (hr : r ≤ x) :
    t.loadByte (s.ea r.val) = s.reg r := by
  obtain rfl := Host.Outcome.next.inj h
  rw [State.advanceIndex_loadByte, s.dumpRegs_loadByte_ea _ _ (by omega) (Nat.lt_succ_of_le hr),
    regNum_reg]

theorem exec_ldMemVx_pc {x : Reg} (h : exec (.ldMemVx x) s = .next t) : t.pc = s.pc := by
  obtain ⟨-, -, -, -, -, hpc, -⟩ := exec_untouched h
  exact hpc rfl

end Sys2Proof.Machine
end

section
/-! Stores and the fetch (spec/20_memory.md R53, R56, R64): the statements. -/

namespace Sys2Proof.Machine

/-- Settles O20: only the rows of FX33 and FX55 name bytes of memory, and no others change. -/
theorem onlyStoresChangeMemory : Obligations.OnlyStoresChangeMemory := by
  intro i s t a h hne
  obtain ⟨-, hbytes, -⟩ := exec_untouched h
  exact touched_bytes (not_not.mp (mt (hbytes a) hne))

/-- Settles O45: PC is unchanged, and the byte at ea(r) is V[r] when the next fetch reads it. -/
theorem nextFetchSeesStoredBytes : Obligations.NextFetchSeesStoredBytes := by
  intro x r s t h hr _
  have hbyte : t.loadByte (s.ea r.val) = s.reg r := exec_ldMemVx_loadByte h hr
  rw [exec_ldMemVx_pc h]
  exact ⟨fun ha => (t.highByte_opcodeAt ha).trans hbyte,
    fun ha => (t.lowByte_opcodeAt ha).trans hbyte⟩

end Sys2Proof.Machine
end

section
/-! SUPPORT. The decoder and the encoder are inverse to each other (spec/30_encoding.md R70 to R78):
the fields of an opcode put together again, then each group's decoder. -/

namespace Sys2Proof

variable {op : Word} {i : Instr} {g : Nat}

/-! ### An opcode is put together from its fields (R71, R72) -/

theorem encodeA_fields (hg : fieldOp op = g) : encodeA g (fieldNNN op) = op := by
  have := op.isLt
  apply BitVec.eq_of_toNat_eq
  simp only [← hg, encodeA, fieldOp, fieldNNN, BitVec.toNat_ofNat]; omega

theorem encodeI_fields (hg : fieldOp op = g) : encodeI g (fieldX op) (fieldNN op) = op := by
  have := op.isLt
  apply BitVec.eq_of_toNat_eq
  simp only [← hg, encodeI, fieldOp, fieldX_val, fieldNN, BitVec.toNat_ofNat]; omega

theorem encodeR_fields {n : Nat} (hg : fieldOp op = g) (hn : (fieldN op).val = n) :
    encodeR g (fieldX op) (fieldY op) n = op := by
  have := op.isLt
  apply BitVec.eq_of_toNat_eq
  simp only [← hg, ← hn, encodeR, fieldOp, fieldX_val, fieldY_val, fieldN_val, BitVec.toNat_ofNat]
  omega

theorem encodeS_fields {n : Nat} (hg : fieldOp op = g) (hn : (fieldNN op).toNat = n) :
    encodeS g (fieldX op) n = op := by
  rw [← hn]; exact encodeI_fields hg

/-! ### Decoding an encoded instruction -/

theorem decode_encode (i : Instr) : decode (encode i) = .ok i := by
  cases i with
  | cls | ret => rfl
  | jp _ | call _ | ldI _ | jpV0 _ => simp [encode, decode, fieldOp_encodeA, fieldNNN_encodeA]
  | seImm _ _ | sneImm _ _ | ldImm _ _ | addImm _ _ | rnd _ _ =>
    simp [encode, decode, fieldOp_encodeI, fieldX_encodeI, fieldNN_encodeI]
  | seReg _ _ | sneReg _ _ =>
    simp [encode, decode, decodeNibble0, fieldOp_encodeR, fieldX_encodeR, fieldY_encodeR,
      fieldN_encodeR]
  | ldReg _ _ | orReg _ _ | andReg _ _ | xorReg _ _ | addReg _ _ | subReg _ _ | shrReg _ _
  | subnReg _ _ | shlReg _ _ =>
    simp [encode, decode, decode8, fieldOp_encodeR, fieldX_encodeR, fieldY_encodeR, fieldN_encodeR]
  | drw _ _ n =>
    simp [encode, decode, fieldOp_encodeR, fieldX_encodeR, fieldY_encodeR, Fin.ext_iff,
      fieldN_encodeR]
  | skp _ | sknp _ =>
    simp [encode, decode, decodeE, fieldOp_encodeS, fieldX_encodeS, fieldNN_encodeS]
  | ldVxDt _ | ldVxK _ | ldDtVx _ | ldStVx _ | addI _ | ldF _ | ldB _ | ldMemVx _ | ldVxMem _ =>
    simp [encode, decode, decodeF, fieldOp_encodeS, fieldX_encodeS, fieldNN_encodeS]

theorem decodeBytes_encodeBytes_append (i : Instr) (rest : List Byte) :
    decodeBytes (encodeBytes i ++ rest) = .ok (i, rest) := by
  simp [encodeBytes, decodeBytes, decode_encode]

/-! ### Encoding a decoded instruction, group by group (R75) -/

theorem encode_of_decode0 (h : decode0 op = .ok i) : encode i = op := by
  unfold decode0 at h
  split at h
  case h_3 => cases h
  all_goals next hop => cases h; exact BitVec.eq_of_toNat_eq hop.symm

theorem encode_of_decode8 (hg : fieldOp op = 0x8) (h : decode8 op = .ok i) : encode i = op := by
  unfold decode8 at h
  split at h
  case h_10 => cases h
  all_goals next hn => cases h; exact encodeR_fields hg hn

theorem encode_of_decodeE (hg : fieldOp op = 0xE) (h : decodeE op = .ok i) : encode i = op := by
  unfold decodeE at h
  split at h
  case h_3 => cases h
  all_goals next hn => cases h; exact encodeS_fields hg hn

theorem encode_of_decodeF (hg : fieldOp op = 0xF) (h : decodeF op = .ok i) : encode i = op := by
  unfold decodeF at h
  split at h
  case h_10 => cases h
  all_goals next hn => cases h; exact encodeS_fields hg hn

theorem decodeNibble0_eq_ok {j : Instr} (h : decodeNibble0 op j = .ok i) :
    (fieldN op).val = 0 ∧ j = i := by
  unfold decodeNibble0 at h
  split at h
  · next hn => exact ⟨hn, Except.ok.inj h⟩
  · cases h

theorem encode_of_decode (h : decode op = .ok i) : encode i = op := by
  unfold decode at h
  split at h
  case h_1 => exact encode_of_decode0 h
  case h_6 hg | h_10 hg =>
    obtain ⟨hn, rfl⟩ := decodeNibble0_eq_ok h
    exact encodeR_fields hg hn
  case h_9 hg => exact encode_of_decode8 hg h
  case h_15 hg => exact encode_of_decodeE hg h
  case h_16 hg => exact encode_of_decodeF hg h
  case h_17 => cases h
  case h_2 hg | h_3 hg | h_11 hg | h_12 hg => cases h; exact encodeA_fields hg
  case h_4 hg | h_5 hg | h_7 hg | h_8 hg | h_13 hg => cases h; exact encodeI_fields hg
  case h_14 hg => cases h; exact encodeR_fields hg rfl

theorem decode_eq_ok_iff : decode op = .ok i ↔ encode i = op :=
  ⟨encode_of_decode, fun h => h ▸ decode_encode i⟩

end Sys2Proof
end

section
/-! SUPPORT. The unknown opcodes, group by group (spec/30_encoding.md R75, R76). -/

namespace Sys2Proof

variable {op : Word} {i : Instr}

theorem decode0_eq_error :
    decode0 op = .error (.unknownOpcode op) ↔ op ≠ 0x00E0 ∧ op ≠ 0x00EE := by
  simp only [ne_eq, BitVec.toNat_eq]
  unfold decode0
  split <;> simp_all

theorem decodeNibble0_eq_error :
    decodeNibble0 op i = .error (.unknownOpcode op) ↔ fieldN op ≠ 0 := by
  simp only [ne_eq, Fin.ext_iff]
  unfold decodeNibble0
  split <;> simp_all

theorem decode8_eq_error :
    decode8 op = .error (.unknownOpcode op) ↔
      8 ≤ (fieldN op).val ∧ (fieldN op).val ≤ 0xD ∨ (fieldN op).val = 0xF := by
  have hlt : (fieldN op).val < 16 := (fieldN op).isLt
  unfold decode8
  split
  case h_10 =>
    simp only [true_iff]
    grind
  all_goals next hn => simp [hn]

theorem decodeE_eq_error :
    decodeE op = .error (.unknownOpcode op) ↔ fieldNN op ∉ [0x9E, 0xA1] := by
  simp only [List.mem_cons, List.not_mem_nil, BitVec.toNat_eq]
  unfold decodeE
  split <;> simp_all

theorem decodeF_eq_error :
    decodeF op = .error (.unknownOpcode op) ↔
      fieldNN op ∉ [0x07, 0x0A, 0x15, 0x18, 0x1E, 0x29, 0x33, 0x55, 0x65] := by
  simp only [List.mem_cons, List.not_mem_nil, BitVec.toNat_eq]
  unfold decodeF
  split <;> simp_all

/-- The groups with unknown opcodes are 0, 5, 8, 9, E and F; every other group decodes (R76). -/
theorem decode_eq_error_iff_group :
    decode op = .error (.unknownOpcode op) ↔
      (fieldOp op = 0x0 ∧ op ≠ 0x00E0 ∧ op ≠ 0x00EE) ∨
      (fieldOp op = 0x5 ∧ fieldN op ≠ 0) ∨
      (fieldOp op = 0x8 ∧
        (8 ≤ (fieldN op).val ∧ (fieldN op).val ≤ 0xD ∨ (fieldN op).val = 0xF)) ∨
      (fieldOp op = 0x9 ∧ fieldN op ≠ 0) ∨
      (fieldOp op = 0xE ∧ fieldNN op ∉ [0x9E, 0xA1]) ∨
      (fieldOp op = 0xF ∧
        fieldNN op ∉ [0x07, 0x0A, 0x15, 0x18, 0x1E, 0x29, 0x33, 0x55, 0x65]) := by
  unfold decode
  split
  case h_1 hg => simp [hg, decode0_eq_error]
  case h_6 hg | h_10 hg => simp [hg, decodeNibble0_eq_error]
  case h_9 hg => simp [hg, decode8_eq_error]
  case h_15 hg => simp [hg, decodeE_eq_error]
  case h_16 hg => simp [hg, decodeF_eq_error]
  case h_17 =>
    have := fieldOp_lt op
    grind
  all_goals next hg => simp [hg]

end Sys2Proof
end

section
/-! SUPPORT. What the rows of the opcode map select (spec/30_encoding.md R74). -/

namespace Sys2Proof

variable {op m : Word} {i : Instr} {r r' : OpcodeRow}

/-! ### A mask with all bits of a field leaves the field as it is -/

theorem fieldOp_and (hm : fieldOp m = 0xF) : fieldOp (op &&& m) = fieldOp op := by
  have hshift := Nat.shiftRight_and_distrib (a := op.toNat) (b := m.toNat) (i := 12)
  have hlt := fieldOp_lt op
  simp only [Nat.shiftRight_eq_div_pow] at hshift
  simp only [fieldOp] at hm hlt ⊢
  rw [BitVec.toNat_and, hshift, hm, Nat.and_two_pow_sub_one_eq_mod _ 4, Nat.mod_eq_of_lt hlt]

theorem fieldN_and (hm : fieldN m = 0xF) : fieldN (op &&& m) = fieldN op := by
  apply Fin.ext
  have hm' : m.toNat % 2 ^ 4 = 2 ^ 4 - 1 := congrArg Fin.val hm
  rw [fieldN_val, fieldN_val, BitVec.toNat_and, Nat.and_mod_two_pow (n := 4), hm',
    Nat.and_two_pow_sub_one_eq_mod, Nat.mod_mod]

theorem fieldNN_and (hm : fieldNN m = 0xFF) : fieldNN (op &&& m) = fieldNN op := by
  apply BitVec.eq_of_toNat_eq
  have hm' : m.toNat % 2 ^ 8 = 2 ^ 8 - 1 := congrArg BitVec.toNat hm
  simp only [fieldNN, BitVec.toNat_ofNat, BitVec.toNat_and]
  rw [Nat.and_mod_two_pow, hm', Nat.and_two_pow_sub_one_eq_mod, Nat.mod_mod]

/-! ### The table of rows -/

/-- Every row fixes the leading nibble. -/
theorem opcodeMap_fixes_fieldOp : ∀ r ∈ opcodeMap, fieldOp r.mask = 0xF := by decide

theorem opcodeMap_group0 : ∀ r ∈ opcodeMap, fieldOp r.value = 0x0 → r.mask = 0xFFFF := by decide

/-- The rows of groups 5, 8 and 9 fix the trailing nibble. -/
theorem opcodeMap_fixes_fieldN : ∀ r ∈ opcodeMap,
    fieldOp r.value = 0x5 ∨ fieldOp r.value = 0x8 ∨ fieldOp r.value = 0x9 →
      fieldN r.mask = 0xF := by decide

/-- The rows of groups E and F fix the trailing byte. -/
theorem opcodeMap_fixes_fieldNN : ∀ r ∈ opcodeMap,
    fieldOp r.value = 0xE ∨ fieldOp r.value = 0xF → fieldNN r.mask = 0xFF := by decide

theorem opcodeMap_value_decodes : ∀ r ∈ opcodeMap,
    decode r.value ≠ .error (.unknownOpcode r.value) := by decide

/-- Two different rows differ in a bit that both masks compare. -/
theorem opcodeMap_disjoint : ∀ r ∈ opcodeMap, ∀ r' ∈ opcodeMap,
    r.value &&& r'.mask = r'.value &&& r.mask → r = r' := by decide

/-! ### What selection says about an opcode -/

theorem OpcodeRow.and_mask_of_selects (h : r.selects op = true) : op &&& r.mask = r.value :=
  beq_iff_eq.mp h

theorem eq_of_selects (hr : r ∈ opcodeMap) (hr' : r' ∈ opcodeMap)
    (h : r.selects op = true) (h' : r'.selects op = true) : r = r' := by
  refine opcodeMap_disjoint r hr r' hr' ?_
  rw [← r.and_mask_of_selects h, ← r'.and_mask_of_selects h', BitVec.and_assoc, BitVec.and_assoc,
    BitVec.and_comm r.mask]

/-- The bits a row compares are all the decoder asks to reject an opcode: if it rejects one that the
row selects, it rejects the row's own value. -/
theorem decode_value_eq_error (hr : r ∈ opcodeMap) (hsel : r.selects op = true)
    (h : decode op = .error (.unknownOpcode op)) :
    decode r.value = .error (.unknownOpcode r.value) := by
  have hand : op &&& r.mask = r.value := r.and_mask_of_selects hsel
  have hop : fieldOp r.value = fieldOp op := hand ▸ fieldOp_and (opcodeMap_fixes_fieldOp r hr)
  have hN (hg : fieldOp op = 0x5 ∨ fieldOp op = 0x8 ∨ fieldOp op = 0x9) :
      fieldN r.value = fieldN op := hand ▸ fieldN_and (opcodeMap_fixes_fieldN r hr (hop ▸ hg))
  have hNN (hg : fieldOp op = 0xE ∨ fieldOp op = 0xF) : fieldNN r.value = fieldNN op :=
    hand ▸ fieldNN_and (opcodeMap_fixes_fieldNN r hr (hop ▸ hg))
  rcases decode_eq_error_iff_group.mp h with
    ⟨hg, -⟩ | ⟨hg, hn⟩ | ⟨hg, hn⟩ | ⟨hg, hn⟩ | ⟨hg, hnn⟩ | ⟨hg, hnn⟩
  · have hmask : r.mask = BitVec.allOnes 16 := opcodeMap_group0 r hr (hop.trans hg)
    have hvalue : op = r.value := by rw [← hand, hmask, BitVec.and_allOnes]
    exact hvalue ▸ h
  all_goals rw [decode_eq_error_iff_group, hop]
  · exact .inr (.inl ⟨hg, hN (.inl hg) ▸ hn⟩)
  · exact .inr (.inr (.inl ⟨hg, hN (.inr (.inl hg)) ▸ hn⟩))
  · exact .inr (.inr (.inr (.inl ⟨hg, hN (.inr (.inr hg)) ▸ hn⟩)))
  · exact .inr (.inr (.inr (.inr (.inl ⟨hg, hNN (.inl hg) ▸ hnn⟩))))
  · exact .inr (.inr (.inr (.inr (.inr ⟨hg, hNN (.inr hg) ▸ hnn⟩))))

/-! ### The row of an instruction -/

/-- The family EncodesInRow, over all instructions. -/
theorem encodesInRow : (i : Instr) → Laws.EncodesInRow.Statement i
  | .cls => Laws.EncodesInRow.cls
  | .ret => Laws.EncodesInRow.ret
  | .jp nnn => Laws.EncodesInRow.jp nnn
  | .call nnn => Laws.EncodesInRow.call nnn
  | .seImm x nn => Laws.EncodesInRow.seImm x nn
  | .sneImm x nn => Laws.EncodesInRow.sneImm x nn
  | .seReg x y => Laws.EncodesInRow.seReg x y
  | .ldImm x nn => Laws.EncodesInRow.ldImm x nn
  | .addImm x nn => Laws.EncodesInRow.addImm x nn
  | .ldReg x y => Laws.EncodesInRow.ldReg x y
  | .orReg x y => Laws.EncodesInRow.orReg x y
  | .andReg x y => Laws.EncodesInRow.andReg x y
  | .xorReg x y => Laws.EncodesInRow.xorReg x y
  | .addReg x y => Laws.EncodesInRow.addReg x y
  | .subReg x y => Laws.EncodesInRow.subReg x y
  | .shrReg x y => Laws.EncodesInRow.shrReg x y
  | .subnReg x y => Laws.EncodesInRow.subnReg x y
  | .shlReg x y => Laws.EncodesInRow.shlReg x y
  | .sneReg x y => Laws.EncodesInRow.sneReg x y
  | .ldI nnn => Laws.EncodesInRow.ldI nnn
  | .jpV0 nnn => Laws.EncodesInRow.jpV0 nnn
  | .rnd x nn => Laws.EncodesInRow.rnd x nn
  | .drw x y n => Laws.EncodesInRow.drw x y n
  | .skp x => Laws.EncodesInRow.skp x
  | .sknp x => Laws.EncodesInRow.sknp x
  | .ldVxDt x => Laws.EncodesInRow.ldVxDt x
  | .ldVxK x => Laws.EncodesInRow.ldVxK x
  | .ldDtVx x => Laws.EncodesInRow.ldDtVx x
  | .ldStVx x => Laws.EncodesInRow.ldStVx x
  | .addI x => Laws.EncodesInRow.addI x
  | .ldF x => Laws.EncodesInRow.ldF x
  | .ldB x => Laws.EncodesInRow.ldB x
  | .ldMemVx x => Laws.EncodesInRow.ldMemVx x
  | .ldVxMem x => Laws.EncodesInRow.ldVxMem x

theorem row_mem_opcodeMap (i : Instr) : i.row ∈ opcodeMap :=
  List.contains_iff_mem.mp (encodesInRow i).1

theorem row_selects_of_decode (h : decode op = .ok i) : i.row.selects op = true :=
  encode_of_decode h ▸ (encodesInRow i).2

/-- The decoder rejects exactly the opcodes that select no row (R76). -/
theorem decode_eq_error_iff_no_row :
    decode op = .error (.unknownOpcode op) ↔ ∀ r ∈ opcodeMap, r.selects op = false := by
  constructor
  · intro h r hr
    by_contra hsel
    exact opcodeMap_value_decodes r hr
      (decode_value_eq_error hr (Bool.eq_true_of_not_eq_false hsel) h)
  · intro hnone
    cases hd : decode op with
    | error e => rw [decode_error op e hd]
    | ok i => exact absurd (row_selects_of_decode hd) (by simp [hnone _ (row_mem_opcodeMap i)])

end Sys2Proof
end

section
/-! The decoder and the encoder (spec/30_encoding.md R70 to R82): the statements. -/

namespace Sys2Proof

/-- Settles O2: the fields of an encoded instruction are its operands, and the two bytes read
big-endian are its opcode. -/
theorem decodeOfEncodeIsTheInstruction : Obligations.DecodeOfEncodeIsTheInstruction :=
  fun i rest => ⟨decode_encode i, decodeBytes_encodeBytes_append i rest⟩

/-- Settles O3: in each group the compared bits and the operand fields make up the opcode. -/
theorem encodeOfDecodeIsTheOpcode : Obligations.EncodeOfDecodeIsTheOpcode :=
  fun _ _ => encode_of_decode

/-- Settles O4, group by group. -/
theorem unknownOpcodesByGroup : Obligations.UnknownOpcodesByGroup :=
  fun _ => decode_eq_error_iff_group

/-- Settles O5: a decoded opcode is the encoding of its instruction, which selects the instruction's
row; rows that select the same opcode are equal. -/
theorem decodeFollowsTheOpcodeMap : Obligations.DecodeFollowsTheOpcodeMap := by
  refine ⟨fun op i h => ?_, fun _ => decode_eq_error_iff_no_row⟩
  have hsel : i.row.selects op = true := row_selects_of_decode h
  exact ⟨row_mem_opcodeMap i, hsel,
    fun r hr hsel' => eq_of_selects hr (row_mem_opcodeMap i) hsel' hsel⟩

/-- Settles O1: the worked encodings, evaluated. -/
theorem workedEncodingsDecodeAsWritten : Obligations.WorkedEncodingsDecodeAsWritten := by
  unfold Obligations.WorkedEncodingsDecodeAsWritten
  decide

end Sys2Proof
end

section
/-! SUPPORT. What the control-flow instructions answer, case by case (spec/40_flow.md R100 to R107),
and a run of calls. -/

namespace Sys2Proof.Machine

variable {c : Touched} {s t : State}

@[simp] theorem zextAddr_toNat (nnn : Addr) : (zextAddr nnn).toNat = nnn.toNat :=
  BitVec.toNat_setWidth_of_le (by decide)

@[simp] theorem zextByte_toNat (x : Byte) : (zextByte x).toNat = x.toNat :=
  BitVec.toNat_setWidth_of_le (by decide)

/-- The target of BNNN: no carry is lost, since 4095 + 255 fits in 16 bits (R107). -/
theorem zextAddr_add_zextByte_toNat (nnn : Addr) (x : Byte) :
    (zextAddr nnn + zextByte x).toNat = nnn.toNat + x.toNat := by
  have hsum : nnn.toNat + x.toNat < 2 ^ 16 := by omega
  rw [BitVec.toNat_add, zextAddr_toNat, zextByte_toNat, Nat.mod_eq_of_lt hsum]

theorem State.skipIf_pc_of_iff {b : Bool} {p : Prop} [Decidable p] (h : b = true ↔ p) :
    (s.skipIf b).pc = if p then s.pc + 2 else s.pc := by
  simp [h]

/-! ### Frames -/

theorem Untouched.run_eq (h : Untouched c s t) (hc : c.halt = false) : t.run = s.run := by
  obtain ⟨-, -, -, -, -, -, -, -, -, -, hhalt, -⟩ := h
  exact (hhalt hc).1

/-- SP and PC leave the frame once they are back at their values. -/
theorem Untouched.of_sp_pc_restored (h : Untouched { c with sp := true, pc := true } s t)
    (hsp : t.sp = s.sp) (hpc : t.pc = s.pc) : Untouched c s t := by
  obtain ⟨hregs, hbytes, hcells, -, hi, -, hrest⟩ := h
  exact ⟨hregs, hbytes, hcells, fun _ => hsp, hi, fun _ => hpc, hrest⟩

/-! ### CALL and RET -/

/-- CALL below 16 entries pushes PC and jumps (R102). -/
theorem exec_call_of_lt (nnn : Addr) (h : s.sp.val < 16) :
    ∃ t, exec (.call nnn) s = .next t ∧ t.stack[s.sp.val] = s.pc ∧ t.sp.val = s.sp.val + 1 ∧
      t.pc.toNat = nnn.toNat ∧
      Untouched { pc := true, sp := true, cells := [⟨s.sp.val, h⟩] } s t := by
  have hpush := s.push_of_lt s.pc h
  have hcell : ∀ k : Fin 16, k.val = s.sp.val → k ∈ [(⟨s.sp.val, h⟩ : Fin 16)] := fun _ hk =>
    List.mem_singleton.mpr (Fin.ext hk)
  exact ⟨_, exec_call_of_some nnn hpush, Vector.getElem_set_self h, rfl, zextAddr_toNat nnn,
    (State.push_untouched hcell rfl hpush).trans (State.setPc_untouched _ _ rfl)⟩

/-- CALL with 16 entries held raises StackOverflow with its opcode (R102). -/
theorem exec_call_of_full (nnn : Addr) (h : s.sp.val = 16) :
    ∃ t, exec (.call nnn) s = .next t ∧
      Raised .stackOverflow (BitVec.ofNat 16 (0x2000 + nnn.toNat)) s t :=
  ⟨_, exec_call_of_none nnn (s.push_of_full s.pc h), s.raise_Raised .stackOverflow _⟩

/-- RET with `k + 1` entries held pops entry `k` into PC (R100), for any frame that names SP and
PC. -/
theorem exec_ret_of_succ {k : Fin 16} (h : k.val + 1 = s.sp.val) (hsp : c.sp = true)
    (hpc : c.pc = true) :
    ∃ t, exec .ret s = .next t ∧ t.pc = s.stack[k.val] ∧ t.sp.val = k.val ∧ Untouched c s t := by
  have hk : s.sp.val - 1 = k.val := by omega
  have hpop := s.pop_of_pos (by omega)
  refine ⟨_, exec_ret_of_some hpop, ?_, hk,
    (State.pop_untouched hsp hpop).trans (State.setPc_untouched _ _ hpc)⟩
  simp only [State.setPc_pc, hk]

/-- RET on an empty stack raises StackUnderflow with its opcode (R100). -/
theorem exec_ret_of_empty (h : s.sp.val = 0) :
    ∃ t, exec .ret s = .next t ∧ Raised .stackUnderflow 0x00EE s t :=
  ⟨_, exec_ret_of_none (s.pop_of_empty h), s.raise_Raised .stackUnderflow 0x00EE⟩

/-! ### Runs of calls -/

theorem execAll_cons_of_next {i : Instr} (is : List Instr) (h : exec i s = .next t) :
    execAll (i :: is) s = execAll is t := by
  simp only [execAll, h]

/-- As many calls as the stack has room for complete, each one entry deeper. -/
theorem execAll_calls (targets : List Addr) (s : State)
    (hroom : s.sp.val + targets.length ≤ 16) :
    ∃ t, execAll (targets.map .call) s = .next t ∧ t.run = s.run ∧
      t.sp.val = s.sp.val + targets.length := by
  induction targets generalizing s with
  | nil => exact ⟨s, rfl, rfl, rfl⟩
  | cons nnn targets ih =>
    rw [List.length_cons] at hroom ⊢
    have hlt : s.sp.val < 16 := by omega
    obtain ⟨u, hu, -, husp, -, hframe⟩ := exec_call_of_lt nnn hlt
    obtain ⟨t, ht, htrun, htsp⟩ := ih u (by omega)
    exact ⟨t, (execAll_cons_of_next _ hu).trans ht, htrun.trans (hframe.run_eq rfl), by omega⟩

end Sys2Proof.Machine
end

section
/-! Control flow (spec/40_flow.md): the statements. -/

namespace Sys2Proof.Machine

/-- Settles O30: sixteen calls fill an empty stack, by induction on the list of targets, and a full
stack refuses the next one. -/
theorem seventeenthCallOverflows : Obligations.SeventeenthCallOverflows := by
  intro s targets nnn hempty hlength
  obtain ⟨t, ht, hrun, hsp⟩ := execAll_calls targets s (by omega)
  have hfull : t.sp.val = 16 := by omega
  obtain ⟨u, hu, hraised⟩ := exec_call_of_full nnn hfull
  exact ⟨t, u, ht, hrun, hfull, hu, hraised⟩

/-- Settles O25: the jump writes PC alone, and widening NNN keeps its value. -/
theorem jumpSetsPc : Obligations.JumpSetsPc := fun nnn s =>
  ⟨_, rfl, zextAddr_toNat nnn, s.setPc_untouched _ rfl⟩

/-- Settles O26: the jump writes PC alone, and the 16-bit sum does not wrap. -/
theorem jumpV0SetsPcToSum : Obligations.JumpV0SetsPcToSum := fun nnn s =>
  ⟨_, rfl, zextAddr_add_zextByte_toNat nnn (s.reg 0), s.setPc_untouched _ rfl⟩

/-- Settles O27: a push succeeds below 16 entries and is refused at 16. -/
theorem callPushesPcOrOverflows : Obligations.CallPushesPcOrOverflows := fun nnn _ =>
  ⟨exec_call_of_lt nnn, exec_call_of_full nnn⟩

/-- Settles O28: a pop succeeds above 0 entries and is refused at 0. -/
theorem returnPopsPcOrUnderflows : Obligations.ReturnPopsPcOrUnderflows := fun _ =>
  ⟨fun _ h => exec_ret_of_succ h rfl rfl, exec_ret_of_empty⟩

/-- Settles O29: RET pops the entry CALL pushed, so SP and PC are back and only the cell stays
written. -/
theorem returnAfterCallComesBack : Obligations.ReturnAfterCallComesBack := by
  intro nnn s h
  obtain ⟨t, ht, hcell, htsp, -, hcall⟩ := exec_call_of_lt nnn h
  obtain ⟨u, hu, hupc, husp, hret⟩ :=
    exec_ret_of_succ (c := { pc := true, sp := true, cells := [⟨s.sp.val, h⟩] })
      (k := ⟨s.sp.val, h⟩) htsp.symm rfl rfl
  have hboth := hcall.trans hret
  exact ⟨t, u, ht, hu, hboth.of_sp_pc_restored (Fin.ext husp) (hupc.trans hcell)⟩

/-- Settles O31: each of the four is a skip on the test of its own condition. -/
theorem conditionalSkips : Obligations.ConditionalSkips := fun _ _ _ s =>
  ⟨⟨_, rfl, s.skipIf_untouched _ rfl, State.skipIf_pc_of_iff beq_iff_eq⟩,
    ⟨_, rfl, s.skipIf_untouched _ rfl, State.skipIf_pc_of_iff bne_iff_ne⟩,
    ⟨_, rfl, s.skipIf_untouched _ rfl, State.skipIf_pc_of_iff beq_iff_eq⟩,
    ⟨_, rfl, s.skipIf_untouched _ rfl, State.skipIf_pc_of_iff bne_iff_ne⟩⟩

end Sys2Proof.Machine
end

section
/-! SUPPORT. What the arithmetic, logic, shift and random instructions answer: the two writes of
`State.setResult`, the flags, the wrapped results and the random source (spec/41_alu.md R110 to
R122). -/

namespace Sys2Proof.Machine

variable {s : State} {x : Reg}

/-! ### Result and flag (R122) -/

theorem State.setReg_reg_same (s : State) (x : Reg) (a : Byte) : (s.setReg x a).reg x = a := by
  simp

theorem State.setReg_untouched_single (s : State) (x : Reg) (a : Byte) :
    Untouched { regs := [x] } s (s.setReg x a) :=
  s.setReg_untouched a (List.mem_singleton_self x)

/-- The flag is written last, so VF holds it for every X. -/
theorem State.setResult_reg_vf (s : State) (x : Reg) (r : Byte) (f : Bool) :
    (s.setResult x r f).reg vf = flagByte f :=
  State.setReg_reg_same _ vf (flagByte f)

theorem State.setResult_reg_of_ne (s : State) (r : Byte) (f : Bool) (hx : x ≠ vf) :
    (s.setResult x r f).reg x = r := by
  simp [State.setResult, hx.symm]

theorem State.setResult_untouched_pair (s : State) (x : Reg) (r : Byte) (f : Bool) :
    Untouched { regs := [x, vf] } s (s.setResult x r f) :=
  s.setResult_untouched r f (by simp) (by simp)

/-- A result given by its value, for the statements in natural numbers. -/
theorem State.setResult_reg_toNat {r : Byte} {n : Nat} (s : State) (f : Bool) (hr : r.toNat = n)
    (hx : x ≠ vf) : ((s.setResult x r f).reg x).toNat = n :=
  (congrArg BitVec.toNat (s.setResult_reg_of_ne r f hx)).trans hr

/-! ### Flags (R116 to R120) -/

theorem flagByte_carry (a b : Byte) :
    flagByte (carry a b) = if a.toNat + b.toNat > 255 then 1 else 0 := by
  simp [flagByte, carry]

theorem flagByte_notBorrow (a b : Byte) :
    flagByte (notBorrow a b) = if a.toNat ≥ b.toNat then 1 else 0 := by
  simp [flagByte, notBorrow]

/-! ### Results modulo 256 -/

theorem byte_sub_toNat (a b : Byte) : (a - b).toNat = (a.toNat + 256 - b.toNat) % 256 := by
  rw [BitVec.toNat_sub]
  omega

theorem byte_shiftLeft_one_toNat (b : Byte) : (b <<< 1).toNat = b.toNat * 2 % 256 := by
  rw [BitVec.toNat_shiftLeft, Nat.shiftLeft_eq]

/-! ### Random source (R121) -/

theorem State.randByte_of_cons {r : Byte} {rs : List Byte} (h : s.rand = r :: rs) :
    s.randByte = r := by
  simp [State.randByte, h]

theorem State.randByte_of_nil (h : s.rand = []) : s.randByte = Config.freeRand s.randDrawn := by
  simp [State.randByte, h]

/-- A supplied byte is removed, and the counter of free bytes stands still. -/
theorem State.consumeRand_of_cons {r : Byte} {rs : List Byte} (h : s.rand = r :: rs) :
    s.consumeRand = { s with rand := rs } := by
  simp [State.consumeRand, h]

theorem State.consumeRand_of_nil (h : s.rand = []) :
    s.consumeRand = { s with randDrawn := s.randDrawn + 1 } := by
  simp [State.consumeRand, h]

end Sys2Proof.Machine
end

section
/-! Load, arithmetic, logic, shift and random (spec/41_alu.md): the statements. -/

namespace Sys2Proof.Machine

/-- Settles O32: one register write. -/
theorem loadImmediate : Obligations.LoadImmediate := fun x nn s =>
  ⟨_, rfl, s.setReg_reg_same x nn, s.setReg_untouched_single x nn⟩

/-- Settles O33: one register write each, the sum taken modulo 256. -/
theorem addImmediateAndCopySetNoFlag : Obligations.AddImmediateAndCopySetNoFlag := by
  intro x y nn s
  have hsum : ((s.setReg x (s.reg x + nn)).reg x).toNat =
      ((s.reg x).toNat + nn.toNat) % 256 := by
    rw [State.setReg_reg_same, BitVec.toNat_add]
  exact ⟨⟨_, rfl, s.setReg_untouched_single x _, hsum⟩,
    _, rfl, s.setReg_untouched_single x _, s.setReg_reg_same x _⟩

/-- Settles O34: each writes its bitwise result and then the flag 0. -/
theorem logicClearsVf : Obligations.LogicClearsVf := by
  intro x y s
  have hclears (r : Byte) : (s.setResult x r false).reg vf = 0 ∧
      Untouched { regs := [x, vf] } s (s.setResult x r false) ∧
      (x ≠ vf → (s.setResult x r false).reg x = r) :=
    ⟨s.setResult_reg_vf x r false, s.setResult_untouched_pair x r false,
      s.setResult_reg_of_ne r false⟩
  exact ⟨⟨_, rfl, hclears _⟩, ⟨_, rfl, hclears _⟩, _, rfl, hclears _⟩

/-- Settles O35: the flag is the carry of the sum written before it. -/
theorem addSetsCarry : Obligations.AddSetsCarry := fun x _ s =>
  ⟨_, rfl, (s.setResult_reg_vf x _ _).trans (flagByte_carry _ _),
    s.setResult_reg_toNat _ (BitVec.toNat_add _ _), s.setResult_untouched_pair x _ _⟩

/-- Settles O36: SUBN is SUB with the operands exchanged; the flag is the not-borrow of the
difference written before it. -/
theorem subtractSetsNotBorrow : Obligations.SubtractSetsNotBorrow := by
  intro x y s
  have hsubtracts (a b : Byte) :
      Untouched { regs := [x, vf] } s (s.setResult x (a - b) (notBorrow a b)) ∧
      (s.setResult x (a - b) (notBorrow a b)).reg vf = (if a.toNat ≥ b.toNat then 1 else 0) ∧
      (x ≠ vf → ((s.setResult x (a - b) (notBorrow a b)).reg x).toNat =
        (a.toNat + 256 - b.toNat) % 256) :=
    ⟨s.setResult_untouched_pair x _ _,
      (s.setResult_reg_vf x _ _).trans (flagByte_notBorrow a b),
      s.setResult_reg_toNat _ (byte_sub_toNat a b)⟩
  exact ⟨⟨_, rfl, hsubtracts _ _⟩, _, rfl, hsubtracts _ _⟩

/-- Settles O37: a shift by one halves or doubles VY, and the flag is the bit shifted out. -/
theorem shiftMovesVyIntoVx : Obligations.ShiftMovesVyIntoVx := fun x _ s =>
  ⟨⟨_, rfl, s.setResult_untouched_pair x _ _, s.setResult_reg_vf x _ _,
      s.setResult_reg_toNat _ (BitVec.toNat_ushiftRight _ 1)⟩,
    ⟨_, rfl, s.setResult_untouched_pair x _ _, s.setResult_reg_vf x _ _,
      s.setResult_reg_toNat _ (byte_shiftLeft_one_toNat _)⟩⟩

/-- Settles O38: a supplied byte is there or not, and the one drawn is the one consumed. -/
theorem randomIsMaskedAndConsumed : Obligations.RandomIsMaskedAndConsumed := by
  intro x nn s
  refine ⟨_, rfl, fun r rs hsupplied => ?_, fun hfree => ?_,
    (s.consumeRand_untouched rfl).trans (State.setReg_untouched _ _ (List.mem_singleton_self x))⟩
  · rw [State.setReg_reg_same, State.setReg_rand, State.setReg_randDrawn,
      State.randByte_of_cons hsupplied, State.consumeRand_of_cons hsupplied]
    exact ⟨rfl, rfl, rfl⟩
  · rw [State.setReg_reg_same, State.setReg_rand, State.setReg_randDrawn,
      State.randByte_of_nil hfree, State.consumeRand_of_nil hfree]
    exact ⟨rfl, hfree, rfl⟩

end Sys2Proof.Machine
end

section
/-! SUPPORT. What the index-register and memory instructions answer: glyph addresses, decimal digits,
and the block moves with the step of I (spec/42_index_memory.md R130 to R135). -/

namespace Sys2Proof.Machine

variable {c : Touched} {s t : State} {x : Reg}

/-! ### Glyph addresses and decimal digits -/

/-- A glyph's address: the sum is at most 432 + 75, so it keeps its value (R132). -/
theorem glyphAddress_toNat (b : Build) (a : Byte) :
    (glyphAddress b a).toNat = b.fontBase.val + 5 * (a.toNat % 16) := by
  have hbase := b.fontBase.isLt
  rw [glyphAddress, BitVec.toNat_ofNat, Nat.mod_eq_of_lt (by omega)]

theorem hundreds_toNat (a : Byte) : (hundreds a).toNat = a.toNat / 100 := by
  rw [hundreds, BitVec.toNat_ofNat, Nat.mod_eq_of_lt (by omega)]

theorem tens_toNat (a : Byte) : (tens a).toNat = a.toNat / 10 % 10 := by
  rw [tens, BitVec.toNat_ofNat, Nat.mod_eq_of_lt (by omega)]

theorem units_toNat (a : Byte) : (units a).toNat = a.toNat % 10 := by
  rw [units, BitVec.toNat_ofNat, Nat.mod_eq_of_lt (by omega)]

/-- The three stores of FX33 go to different addresses, so none overwrites another (R133). -/
theorem exec_ldB_loadByte (h : exec (.ldB x) s = .next t) :
    t.loadByte (s.ea 0) = hundreds (s.reg x) ∧ t.loadByte (s.ea 1) = tens (s.reg x) ∧
      t.loadByte (s.ea 2) = units (s.reg x) := by
  obtain rfl := Host.Outcome.next.inj h
  simp [s.ea_inj]

/-! ### Block moves (R134, R135) -/

/-- A frame still holds when it names I as well. -/
theorem Untouched.allow_i (h : Untouched c s t) : Untouched { c with i := true } s t := by
  obtain ⟨hreg, hbyte, hcell, hsp, -, hrest⟩ := h
  exact ⟨hreg, hbyte, hcell, hsp, nofun, hrest⟩

theorem State.advanceIndex_i_toNat (s : State) (n : Nat) :
    (s.advanceIndex n).i.toNat =
      if s.inputs.advanceI = true then (s.i.toNat + n) % 65536 else s.i.toNat := by
  rw [State.advanceIndex_i]
  split
  · rw [BitVec.toNat_add, BitVec.toNat_ofNat, Nat.add_mod_mod]
  · rfl

theorem exec_ldMemVx_i (h : exec (.ldMemVx x) s = .next t) :
    t.i.toNat = if s.inputs.advanceI = true then (s.i.toNat + x.val + 1) % 65536
      else s.i.toNat := by
  obtain rfl := Host.Outcome.next.inj h
  rw [State.advanceIndex_i_toNat, State.dumpRegs_i, State.dumpRegs_inputs, Nat.add_assoc]

theorem exec_ldVxMem_i (h : exec (.ldVxMem x) s = .next t) :
    t.i.toNat = if s.inputs.advanceI = true then (s.i.toNat + x.val + 1) % 65536
      else s.i.toNat := by
  obtain rfl := Host.Outcome.next.inj h
  rw [State.advanceIndex_i_toNat, State.loadRegs_i, State.loadRegs_inputs, Nat.add_assoc]

/-- FX65 loads V[r] from ea(r), each r at most X, whatever ADVANCE_I is. -/
theorem exec_ldVxMem_reg {r : Reg} (h : exec (.ldVxMem x) s = .next t) (hr : r ≤ x) :
    t.reg r = s.loadByte (s.ea r.val) := by
  obtain rfl := Host.Outcome.next.inj h
  rw [State.advanceIndex_reg, s.loadRegs_reg _ (by omega), if_pos (Nat.lt_succ_of_le hr)]

theorem exec_inputs {i : Instr} (h : exec i s = .next t) : t.inputs = s.inputs := by
  obtain ⟨-, -, -, -, -, -, -, -, -, -, -, -, -, -, -, -, hinputs, -⟩ := exec_untouched h
  exact hinputs

end Sys2Proof.Machine
end

section
/-! Index register and memory (spec/42_index_memory.md): the statements. -/

namespace Sys2Proof.Machine

/-- Settles O44: the load reads at ea(r) the byte the dump stored there, since I is set back and the
V registers in between are not read; and the inputs are still those of the first state. -/
theorem loadAfterDumpRestoresRegisters : Obligations.LoadAfterDumpRestoresRegisters := by
  intro x s between
  obtain ⟨t, ht, -⟩ := exec_frame (.ldMemVx x) s
  obtain ⟨u, hu, -⟩ := exec_frame (.ldVxMem x) { t with v := between, i := s.i }
  refine ⟨t, u, ht, hu, fun r hr => ?_, ?_⟩
  · calc u.reg r = t.loadByte (s.ea r.val) := exec_ldVxMem_reg hu hr
      _ = s.reg r := exec_ldMemVx_loadByte ht hr
  · rw [← exec_inputs ht]
    exact exec_ldVxMem_i hu

/-- Settles O39: each writes I alone, and neither address loses a bit. -/
theorem indexLoads : Obligations.IndexLoads := fun nnn x s =>
  ⟨⟨_, rfl, zextAddr_toNat nnn, s.setI_untouched _ rfl⟩,
    _, rfl, s.setI_untouched _ rfl, glyphAddress_toNat s.build (s.reg x)⟩

/-- Settles O40: one write of I, the sum taken modulo 65536. -/
theorem addToIndexWraps : Obligations.AddToIndexWraps := by
  intro x s
  have hsum : (s.i + zextByte (s.reg x)).toNat = (s.i.toNat + (s.reg x).toNat) % 65536 := by
    rw [BitVec.toNat_add, zextByte_toNat]
  exact ⟨_, rfl, hsum, s.setI_untouched _ rfl⟩

/-- Settles O41: each digit reads back from its own address, and each is below 256. -/
theorem decimalDigitsAreStored : Obligations.DecimalDigitsAreStored := by
  intro x s
  obtain ⟨t, ht, hframe⟩ := exec_frame (.ldB x) s
  obtain ⟨hhundreds, htens, hunits⟩ := exec_ldB_loadByte ht
  refine ⟨t, ht, ?_, ?_, ?_, hframe⟩
  · rw [hhundreds, hundreds_toNat]
  · rw [htens, tens_toNat]
  · rw [hunits, units_toNat]

/-- Settles O42: the frame of FX55 names ea(0) to ea(X), and I under ADVANCE_I only. -/
theorem registersAreDumped : Obligations.RegistersAreDumped := by
  intro x s
  obtain ⟨t, ht, hframe⟩ := exec_frame (.ldMemVx x) s
  have hframe_i := hframe.allow_i
  exact ⟨t, ht, fun _ => exec_ldMemVx_loadByte ht, exec_ldMemVx_i ht, hframe_i⟩

/-- Settles O43: the frame of FX65 names V0 to VX, and I under ADVANCE_I only. -/
theorem registersAreLoaded : Obligations.RegistersAreLoaded := by
  intro x s
  obtain ⟨t, ht, hframe⟩ := exec_frame (.ldVxMem x) s
  have hframe_i := hframe.allow_i
  exact ⟨t, ht, fun _ => exec_ldVxMem_reg ht, exec_ldVxMem_i ht, hframe_i⟩

end Sys2Proof.Machine
end

section
/-! SUPPORT. What CLS and DRW answer, in the words of the statements: the pixels, the collision
flag, and what of a sprite a draw leaves as it was (spec/43_display.md R140, R141). -/

namespace Sys2Proof.Machine

variable {s t : State} {x y : Reg} {n : Count} {px py : Nat}

/-! ### The flag -/

theorem flagByte_eq_zero_or_one (f : Bool) : flagByte f = 0 ∨ flagByte f = 1 := by
  cases f with
  | false => exact .inl rfl
  | true => exact .inr rfl

theorem flagByte_eq_one_iff (f : Bool) : flagByte f = 1 ↔ f = true := by
  cases f with
  | false => decide
  | true => decide

/-! ### The sprite's pixels -/

/-- The pixel offset from the sprite's origin is the row and column of `SpriteSets`. -/
theorem spriteLit_iff_SpriteSets :
    spriteLit (fun r => s.loadByte (s.ea r)) ((s.reg x).toNat % 64) ((s.reg y).toNat % 32) n.val
      px py = true ↔ SpriteSets s x y n px py := by
  simp only [spriteLit, Bool.and_eq_true, decide_eq_true_eq]
  constructor
  · rintro ⟨⟨⟨⟨hy, hyn⟩, hx⟩, hx8⟩, hbit⟩
    exact ⟨py - (s.reg y).toNat % 32, px - (s.reg x).toNat % 64, by omega, by omega, by omega,
      by omega, hbit⟩
  · rintro ⟨r, c, hr, hc, rfl, rfl, hbit⟩
    rw [Nat.add_sub_cancel_left, Nat.add_sub_cancel_left]
    exact ⟨⟨⟨⟨by omega, by omega⟩, by omega⟩, by omega⟩, hbit⟩

/-- The sprite is read from the coordinates, I and memory alone. -/
theorem SpriteSets.congr (hx : (t.reg x).toNat % 64 = (s.reg x).toNat % 64)
    (hy : (t.reg y).toNat % 32 = (s.reg y).toNat % 32) (hi : t.i = s.i)
    (hmem : ∀ a, t.loadByte a = s.loadByte a) :
    SpriteSets t x y n px py ↔ SpriteSets s x y n px py := by
  simp only [SpriteSets, State.ea, hx, hy, hi, hmem]

/-! ### A draw -/

/-- Each pixel of the screen is XORed with the sprite's. -/
theorem exec_drw_pixel (h : exec (.drw x y n) s = .next t) (hpx : px < 64) (hpy : py < 32) :
    t.fb.pixel px py = (s.fb.pixel px py ^^ spriteLit (fun r => s.loadByte (s.ea r))
      ((s.reg x).toNat % 64) ((s.reg y).toNat % 32) n.val px py) := by
  obtain rfl := Host.Outcome.next.inj h
  exact Canvas.drawRows_pixel _ _ _ _ _ _ _ hpx hpy

theorem exec_drw_pixel_of_sets (h : exec (.drw x y n) s = .next t) (hpx : px < 64) (hpy : py < 32)
    (hset : SpriteSets s x y n px py) : t.fb.pixel px py = !s.fb.pixel px py := by
  rw [exec_drw_pixel h hpx hpy, spriteLit_iff_SpriteSets.mpr hset, Bool.xor_true]

theorem exec_drw_pixel_of_not_sets (h : exec (.drw x y n) s = .next t) (hpx : px < 64)
    (hpy : py < 32) (hset : ¬SpriteSets s x y n px py) : t.fb.pixel px py = s.fb.pixel px py := by
  rw [exec_drw_pixel h hpx hpy,
    Bool.eq_false_of_not_eq_true (mt spriteLit_iff_SpriteSets.mp hset), Bool.xor_false]

theorem exec_drw_vf (h : exec (.drw x y n) s = .next t) :
    t.reg vf = flagByte (s.drawSprite x y n).hit := by
  obtain rfl := Host.Outcome.next.inj h
  exact State.setReg_reg_same _ vf _

/-- VF reports a collision: the sprite sets a lit pixel of the screen. -/
theorem exec_drw_vf_eq_one_iff (h : exec (.drw x y n) s = .next t) :
    t.reg vf = 1 ↔
      ∃ px < 64, ∃ py < 32, SpriteSets s x y n px py ∧ s.fb.pixel px py = true := by
  rw [exec_drw_vf h, flagByte_eq_one_iff, State.drawSprite, Canvas.drawRows_hit]
  simp only [spriteLit_iff_SpriteSets, Bool.false_eq_true, false_or]

/-- A draw writes neither I nor memory, so at the same coordinates the sprite is the same after
it. -/
theorem exec_drw_SpriteSets (h : exec (.drw x y n) s = .next t)
    (hx : (t.reg x).toNat % 64 = (s.reg x).toNat % 64)
    (hy : (t.reg y).toNat % 32 = (s.reg y).toNat % 32) :
    SpriteSets t x y n px py ↔ SpriteSets s x y n px py := by
  obtain ⟨-, hmem, -, -, hi, -⟩ := exec_untouched h
  exact SpriteSets.congr hx hy (hi rfl) fun a => hmem a List.not_mem_nil

/-! ### DIRTY -/

/-- Each of the two goes through `State.show`, which sets DIRTY (R143). -/
theorem exec_display_dirty {i : Instr} (hi : i = .cls ∨ ∃ x y n, i = .drw x y n)
    (h : exec i s = .next t) : t.dirty = true := by
  rcases hi with rfl | ⟨x, y, n, rfl⟩
  · exact Host.Outcome.next.inj h ▸ rfl
  · exact Host.Outcome.next.inj h ▸ rfl

end Sys2Proof.Machine
end

section
/-! Display (spec/43_display.md): the statements. -/

namespace Sys2Proof.Machine

/-- Settles O19: only the rows of CLS and DRW name FB and DIRTY, and both set DIRTY. -/
theorem onlyDisplayInstructionsChangeTheScreen :
    Obligations.OnlyDisplayInstructionsChangeTheScreen := by
  refine ⟨fun i s t h hne => ?_, fun i s t => exec_display_dirty⟩
  obtain ⟨-, -, -, -, -, -, -, -, hscreen, -⟩ := exec_untouched h
  by_contra hi
  obtain ⟨hfb, hdirty⟩ := hscreen (Bool.eq_false_of_not_eq_true (mt touched_fb hi))
  exact hne.elim (· hfb) (· hdirty)

/-- Settles O47: the closed form of the drawing loops, and the frame of DRW. -/
theorem drawFlipsExactlyTheSpritePixels : Obligations.DrawFlipsExactlyTheSpritePixels := by
  intro x y n s
  obtain ⟨t, ht, hframe⟩ := exec_frame (.drw x y n) s
  have hdirty : t.dirty = true := exec_display_dirty (.inr ⟨x, y, n, rfl⟩) ht
  have hflag : t.reg vf = 0 ∨ t.reg vf = 1 := exec_drw_vf ht ▸ flagByte_eq_zero_or_one _
  exact ⟨t, ht, fun _ hpx _ hpy =>
    ⟨exec_drw_pixel_of_sets ht hpx hpy, exec_drw_pixel_of_not_sets ht hpx hpy⟩,
    hflag, exec_drw_vf_eq_one_iff ht, hdirty, hframe⟩

/-- Settles O48: the second draw sets the same pixels as the first, so each is flipped twice or not
at all; and a pixel the second finds lit was dark before the first. -/
theorem drawingTwiceRestoresTheScreen : Obligations.DrawingTwiceRestoresTheScreen := by
  intro x y n s t u ht hu hx hy
  have hsame (px py : Nat) : SpriteSets t x y n px py ↔ SpriteSets s x y n px py :=
    exec_drw_SpriteSets ht hx hy
  constructor
  · refine FrameBuffer.ext_pixel _ _ fun px hpx py hpy => ?_
    by_cases hset : SpriteSets s x y n px py
    · rw [exec_drw_pixel_of_sets hu hpx hpy ((hsame px py).mpr hset),
        exec_drw_pixel_of_sets ht hpx hpy hset, Bool.not_not]
    · rw [exec_drw_pixel_of_not_sets hu hpx hpy (mt (hsame px py).mp hset),
        exec_drw_pixel_of_not_sets ht hpx hpy hset]
  · have hlit : ∀ px < 64, ∀ py < 32, SpriteSets s x y n px py →
        (t.fb.pixel px py = true ↔ s.fb.pixel px py = false) := fun px hpx py hpy hset => by
      rw [exec_drw_pixel_of_sets ht hpx hpy hset, Bool.not_eq_true']
    rw [exec_drw_vf_eq_one_iff hu]
    constructor
    · rintro ⟨px, hpx, py, hpy, hset, hp⟩
      have hset' := (hsame px py).mp hset
      exact ⟨px, hpx, py, hpy, hset', (hlit px hpx py hpy hset').mp hp⟩
    · rintro ⟨px, hpx, py, hpy, hset, hp⟩
      exact ⟨px, hpx, py, hpy, (hsame px py).mpr hset, (hlit px hpx py hpy hset).mpr hp⟩

/-- Settles O46: the blank screen is shown, and nothing else is written. -/
theorem clearBlanksTheScreen : Obligations.ClearBlanksTheScreen := fun s =>
  ⟨_, rfl, fun px _ py _ => FrameBuffer.pixel_blank px py, rfl, s.show_untouched _ rfl⟩

end Sys2Proof.Machine
end

section
/-! SUPPORT. What a step past its gates runs (spec/45_execution_cycle.md R161 to R165). -/

namespace Sys2Proof.Machine

variable {s : State}

/-- The opcode the fetch reads, for a PC that can be fetched at (20_memory.md R54, R57). -/
theorem State.opcodeAt_pc (hpc : s.pc.toNat ≤ 4094) : s.opcodeAt s.pc = opcodeAtPc s := by
  have hlo : (BitVec.ofNat 12 s.pc.toNat).toNat = s.pc.toNat :=
    Nat.mod_eq_of_lt (by omega)
  have hhi : (BitVec.ofNat 12 (s.pc.toNat + 1)).toNat = s.pc.toNat + 1 :=
    Nat.mod_eq_of_lt (by omega)
  simp only [State.opcodeAt, opcodeAtPc, State.loadByte, hlo, hhi]

theorem State.fetchable_of_le (hpc : s.pc.toNat ≤ 4094) : s.fetchable = true :=
  decide_eq_true (by omega)

theorem Enabled.gateOpen (h : Enabled s) : s.gateOpen = true := by
  obtain ⟨hrun, hrequest⟩ := h
  cases hmode : s.inputs.stepMode with
  | false => simp [State.gateOpen, hrun, hmode]
  | true => simp [State.gateOpen, hrun, hrequest hmode]

/-- Without STEP_MODE a running core needs no request (R163). -/
theorem Enabled.of_not_stepMode (hrun : s.run = .running) (hmode : s.inputs.stepMode = false) :
    Enabled s :=
  ⟨hrun, fun h => absurd h (by simp [hmode])⟩

theorem State.fetched_of_not_stepMode (hmode : s.inputs.stepMode = false) :
    s.fetched = s.advance := by
  simp [State.fetched, State.takeRequest, hmode]

/-- A step past its gates whose opcode decodes is the instruction's meaning on the fetched state
(R161, R165). -/
theorem step_of_decode {i : Instr} (hs : Enabled s) (hpc : s.pc.toNat ≤ 4094)
    (hdecode : decode (opcodeAtPc s) = .ok i) : step s = exec i s.fetched :=
  step_of_run s i _
    (s.front_run hs.gateOpen (State.fetchable_of_le hpc) i (by rw [State.opcodeAt_pc hpc, hdecode]))

end Sys2Proof.Machine
end

section
/-! SUPPORT. Key-up edges, the key FX0A finds, and polling in place
(spec/44_keys_timers.md R153). -/

namespace Sys2Proof.Machine

variable {s : State} {k : Nat} {x : Reg}

/-! ### The released key -/

theorem State.keyUpEdge_iff :
    s.keyUpEdge k = true ↔ s.keyPrev.getLsbD k = true ∧ s.keyCur.getLsbD k = false := by
  simp [State.keyUpEdge]

theorem State.releasedKey_of_no_edge
    (h : ∀ k < 16, ¬(s.keyPrev.getLsbD k = true ∧ s.keyCur.getLsbD k = false)) :
    s.releasedKey = none :=
  s.releasedKey_none.mpr fun k hk => Bool.eq_false_of_not_eq_true (mt State.keyUpEdge_iff.mp (h k hk))

/-- The key with an edge below which no key has one is the key FX0A finds: another answer would have
an edge below it, or be below it. -/
theorem State.releasedKey_of_lowest_edge (hk : k < 16) (hedge : s.keyUpEdge k = true)
    (hlow : ∀ j < k, ¬s.keyUpEdge j = true) : s.releasedKey = some k := by
  cases hfound : s.releasedKey with
  | none => exact absurd hedge (by simp [s.releasedKey_none.mp hfound k hk])
  | some j =>
    obtain ⟨-, hj, hbelow⟩ := s.releasedKey_some j hfound
    have hle : k ≤ j := not_lt.mp fun hjk => hlow j hjk hj
    have hge : j ≤ k := not_lt.mp fun hkj => absurd hedge (by simp [hbelow k hkj])
    rw [le_antisymm hge hle]

/-! ### Polling -/

/-- The rewind of FX0A undoes the fetch's advance of PC. -/
theorem State.advance_setPc_back (s : State) : s.advance.setPc (s.advance.pc - 2) = s := by
  rw [State.advance_pc, BitVec.add_sub_cancel]
  rfl

@[simp] theorem State.advance_releasedKey (s : State) :
    s.advance.releasedKey = s.releasedKey := rfl

theorem exec_ldVxK_advance_of_none (h : s.releasedKey = none) :
    exec (.ldVxK x) s.advance = .next s := by
  rw [exec_ldVxK_of_none x (s.advance_releasedKey.trans h), State.advance_setPc_back]

/-- What answers the state itself does so any number of times. -/
theorem applyAll_replicate_of_fixed {o : HostOp} (n : Nat) (h : o.apply s = .next s) :
    applyAll (List.replicate n o) s = .next s := by
  induction n with
  | zero => rfl
  | succ n ih => simp only [List.replicate_succ, applyAll, h, ih]

end Sys2Proof.Machine
end

section
/-! Keys and timers (spec/44_keys_timers.md): the statements. -/

namespace Sys2Proof.Machine

/-- Settles O52: one step fetches FX0A, which rewinds the PC the fetch advanced, so the step answers
the state it started from; and so any number of them, by induction. -/
theorem waitKeyPollsInPlace : Obligations.WaitKeyPollsInPlace := by
  intro n x s hrun hmode hpc hdecode hnone
  refine applyAll_replicate_of_fixed n ?_
  calc step s
    _ = exec (.ldVxK x) s.fetched :=
      step_of_decode (.of_not_stepMode hrun hmode) hpc hdecode
    _ = exec (.ldVxK x) s.advance := by rw [State.fetched_of_not_stepMode hmode]
    _ = .next s := exec_ldVxK_advance_of_none (State.releasedKey_of_no_edge hnone)

/-- Settles O49: each is a skip on the bit of KEY_CUR that the low half of VX names. -/
theorem skipOnKey : Obligations.SkipOnKey := fun _ s =>
  ⟨⟨_, rfl, s.skipIf_untouched _ rfl, State.skipIf_pc_of_iff Iff.rfl⟩,
    ⟨_, rfl, s.skipIf_untouched _ rfl, State.skipIf_pc_of_iff (Bool.not_eq_true' _).to_iff⟩⟩

/-- Settles O50: one write each, to V[X], DT or ST alone. -/
theorem timerMoves : Obligations.TimerMoves := fun x s =>
  ⟨⟨_, rfl, s.setReg_reg_same x s.dt, s.setReg_untouched_single x s.dt⟩,
    ⟨_, rfl, s.setDt_dt (s.reg x), s.setDt_untouched _ rfl⟩,
    ⟨_, rfl, s.setSt_st (s.reg x), s.setSt_untouched _ rfl⟩⟩

/-- Settles O51: the key FX0A finds is the lowest one with an edge, and its index fits in a byte;
when it finds none, only PC is written. -/
theorem waitKeyCompletesOnLowestEdge : Obligations.WaitKeyCompletesOnLowestEdge := by
  intro x s
  constructor
  · intro k hk hprev hcur hlow
    have hfound : s.releasedKey = some k :=
      State.releasedKey_of_lowest_edge hk (State.keyUpEdge_iff.mpr ⟨hprev, hcur⟩)
        fun j hj => mt State.keyUpEdge_iff.mp (hlow j hj)
    have hval : ((s.setReg x (BitVec.ofNat 8 k)).reg x).toNat = k := by
      rw [State.setReg_reg_same]
      exact Nat.mod_eq_of_lt (by omega)
    exact ⟨_, exec_ldVxK_of_some x hfound, hval, s.setReg_untouched_single x _⟩
  · intro hnone
    exact ⟨_, exec_ldVxK_of_none x (State.releasedKey_of_no_edge hnone), rfl,
      s.setPc_untouched _ rfl⟩

end Sys2Proof.Machine
end

section
/-! SUPPORT. What a step answers when its gates are closed, when the fetch fails, when the opcode is
unknown; and the state it runs an instruction on (spec/45_execution_cycle.md R162 to R166). -/

namespace Sys2Proof.Machine

variable {s t : State}

/-! ### The gates (R162, R163) -/

theorem step_of_gateClosed (h : s.gateOpen = false) : step s = .next s :=
  step_of_done s s (s.front_closed h)

theorem State.gateOpen_of_halted (h : s.run = .halted) : s.gateOpen = false := by
  simp [State.gateOpen, h]

theorem step_of_halted (h : s.run = .halted) : step s = .next s :=
  step_of_gateClosed (State.gateOpen_of_halted h)

theorem State.gateOpen_of_no_request (hmode : s.inputs.stepMode = true)
    (hreq : s.stepReq = false) : s.gateOpen = false := by
  simp [State.gateOpen, hmode, hreq]

theorem State.takeRequest_eq_afterGate (s : State) : s.takeRequest = afterGate s := by
  cases hmode : s.inputs.stepMode with
  | false => simp [State.takeRequest, afterGate, hmode]
  | true => simp [State.takeRequest, afterGate, hmode]

/-- The state an instruction runs on, in the words of the statements (R163, R164). -/
theorem State.fetched_eq_afterGate (s : State) :
    s.fetched = { afterGate s with pc := s.pc + 2 } := by
  rw [State.fetched, State.takeRequest_eq_afterGate]
  rfl

@[simp] theorem State.fetched_inputs (s : State) : s.fetched.inputs = s.inputs := by
  simp [State.fetched]

@[simp] theorem State.fetched_reports (s : State) : s.fetched.reports = s.reports := by
  simp [State.fetched]

/-! ### The failed fetch (R164) -/

theorem State.le_of_fetchable (h : s.fetchable = true) : s.pc.toNat ≤ 4094 :=
  Nat.le_of_lt_succ (of_decide_eq_true h)

theorem State.fetchable_of_ge (hpc : 4095 ≤ s.pc.toNat) : s.fetchable = false :=
  decide_eq_false (by omega)

theorem step_of_fetch_out_of_bounds (hs : Enabled s) (hpc : 4095 ≤ s.pc.toNat) :
    step s = .next s.fetchFails :=
  step_of_done s _ (s.front_fails hs.gateOpen (State.fetchable_of_ge hpc))

theorem State.fetchFails_Raised (s : State) :
    Raised .fetchOutOfBounds s.pc (afterGate s) s.fetchFails := by
  rw [State.fetchFails, State.takeRequest_eq_afterGate]
  exact (afterGate s).raise_Raised .fetchOutOfBounds s.pc

/-! ### The unknown opcode (R166) -/

theorem step_of_unknown {e : DecodeError} (hs : Enabled s) (hpc : s.pc.toNat ≤ 4094)
    (hdecode : decode (opcodeAtPc s) = .error e) :
    step s = .next (s.fetched.unknown (opcodeAtPc s)) := by
  rw [← State.opcodeAt_pc hpc] at hdecode ⊢
  exact step_of_done s _ (s.front_unknown hs.gateOpen (State.fetchable_of_le hpc) e hdecode)

theorem State.unknown_of_halting (op : Word) (h : s.inputs.haltOnUnknown = true) :
    s.unknown op = s.raise .unknownOpcode op := if_pos h

theorem State.unknown_of_not_halting (op : Word) (h : s.inputs.haltOnUnknown = false) :
    s.unknown op = s.report .unknownOpcode op := if_neg (by simp [h])

@[simp] theorem State.unknown_stepReq (s : State) (op : Word) :
    (s.unknown op).stepReq = s.stepReq := by
  unfold State.unknown
  split <;> rfl

/-- Halting or not, an unknown opcode is reported. -/
@[simp] theorem State.unknown_reports (s : State) (op : Word) :
    (s.unknown op).reports = s.reports ++ [⟨.unknownOpcode, op⟩] := by
  unfold State.unknown
  split <;> rfl

/-! ### STEP_REQ and the reports after a step (R163, R167) -/

/-- A step past its gates takes the request under STEP_MODE, whatever it ends in. -/
theorem step_stepReq_of_gateOpen (hg : s.gateOpen = true) (h : step s = .next t) :
    t.stepReq = if s.inputs.stepMode then false else s.stepReq := by
  rcases step_cases s with ⟨hclosed, -⟩ | ⟨-, -, hs⟩ | ⟨-, -, hs⟩ | ⟨-, -, i, -, hs⟩
  · exact absurd (hclosed.symm.trans hg) Bool.false_ne_true
  · obtain rfl := Host.Outcome.next.inj (hs.symm.trans h)
    exact s.takeRequest_stepReq
  · obtain rfl := Host.Outcome.next.inj (hs.symm.trans h)
    exact (s.fetched.unknown_stepReq _).trans s.fetched_stepReq
  · obtain ⟨-, -, -, hreq, -⟩ := instructionWriteRights i _ _ (hs.symm.trans h)
    exact hreq.trans s.fetched_stepReq

theorem Untouched.reports_eq {c : Touched} (h : Untouched c s t) (hc : c.halt = false) :
    t.reports = s.reports := by
  obtain ⟨-, -, -, -, -, -, -, -, -, -, hhalt, -⟩ := h
  obtain ⟨-, -, hreports⟩ := hhalt hc
  exact hreports

/-- An instruction reports nothing, or one stack condition with its own opcode
(40_flow.md R100, R102). -/
theorem exec_reports {i : Instr} (h : exec i s = .next t) :
    t.reports = s.reports ∨
    ∃ c, (c = .stackOverflow ∨ c = .stackUnderflow) ∧ t.reports = s.reports ++ [⟨c, encode i⟩] := by
  by_cases hkept : t.reports = s.reports
  · exact .inl hkept
  · rcases (onlyCallAndReturnTouchTheStack i s t h).2 (.inr (.inr (.inr hkept))) with
      rfl | ⟨nnn, rfl⟩
    · cases hp : s.pop with
      | none =>
        obtain rfl := Host.Outcome.next.inj ((exec_ret_of_none hp).symm.trans h)
        exact .inr ⟨_, .inr rfl, s.raise_reports _ _⟩
      | some p =>
        obtain rfl := Host.Outcome.next.inj ((exec_ret_of_some hp).symm.trans h)
        exact .inl ((State.pop_untouched (c := { sp := true }) rfl hp).reports_eq rfl)
    · cases hp : s.push s.pc with
      | none =>
        obtain rfl := Host.Outcome.next.inj ((exec_call_of_none nnn hp).symm.trans h)
        exact .inr ⟨_, .inl rfl, s.raise_reports _ _⟩
      | some u =>
        obtain rfl := Host.Outcome.next.inj ((exec_call_of_some nnn hp).symm.trans h)
        exact .inl ((State.push_untouched (c := { cells := List.finRange 16, sp := true })
          (by simp) rfl hp).reports_eq rfl)

end Sys2Proof.Machine
end

section
/-! SUPPORT. What the host's operations do in Halted (spec/60_exceptions.md R190, R198). -/

namespace Sys2Proof.Machine

variable {s t u : State}

/-- `s` with those pieces of `t` that the operations other than reset and step write: the timers,
TONE, DIRTY, the key snapshots, STEP_REQ and the frames handed over. -/
def State.withHostPieces (s t : State) : State :=
  { s with
    dt := t.dt, st := t.st, tone := t.tone, dirty := t.dirty, keyCur := t.keyCur,
    keyPrev := t.keyPrev, stepReq := t.stepReq, frames := t.frames }

theorem State.withHostPieces_trans (h : t = s.withHostPieces t) (h' : u = t.withHostPieces u) :
    u = s.withHostPieces u := by
  rw [h] at h'
  exact h'

theorem State.consumeFrame_withHostPieces (s : State) :
    s.consumeFrame = s.withHostPieces s.consumeFrame := by
  unfold State.consumeFrame
  split <;> rfl

theorem State.consumeFrame_stepReq (s : State) : s.consumeFrame.stepReq = s.stepReq := by
  unfold State.consumeFrame
  split <;> rfl

/-- In Halted an operation other than reset writes none but the host's pieces, a step not even
those; STEP_REQ is written by request_advance alone. -/
theorem HostOp.apply_of_halted (o : HostOp) (hreset : ∀ rom, o ≠ .reset rom)
    (hrun : s.run = .halted) (h : o.apply s = .next t) :
    t = s.withHostPieces t ∧ (o ≠ .requestAdvance → t.stepReq = s.stepReq) := by
  cases o with
  | reset rom => exact absurd rfl (hreset rom)
  | step =>
    obtain rfl := Host.Outcome.next.inj ((step_of_halted hrun).symm.trans h)
    exact ⟨rfl, fun _ => rfl⟩
  | consumeFrame =>
    obtain rfl := Host.Outcome.next.inj h
    exact ⟨s.consumeFrame_withHostPieces, fun _ => s.consumeFrame_stepReq⟩
  | updateKeys _ | tickTimers =>
    obtain rfl := Host.Outcome.next.inj h
    exact ⟨rfl, fun _ => rfl⟩
  | requestAdvance =>
    obtain rfl := Host.Outcome.next.inj h
    exact ⟨rfl, fun hne => absurd rfl hne⟩

/-- So does any run without a reset. -/
theorem applyAll_of_halted {os : List HostOp} (hreset : ∀ rom, HostOp.reset rom ∉ os)
    (hrun : s.run = .halted) (h : applyAll os s = .next t) :
    t = s.withHostPieces t ∧ (HostOp.requestAdvance ∉ os → t.stepReq = s.stepReq) := by
  refine applyAll_keeps
    (fun u => u = s.withHostPieces u ∧ (HostOp.requestAdvance ∉ os → u.stepReq = s.stepReq))
    os s t (fun o ho u v ⟨hu, hreq⟩ hv => ?_) ⟨rfl, fun _ => rfl⟩ h
  have hurun : u.run = .halted := (congrArg State.run hu).trans hrun
  obtain ⟨hv, hreq'⟩ := o.apply_of_halted (fun rom e => hreset rom (e ▸ ho)) hurun hv
  exact ⟨State.withHostPieces_trans hu hv,
    fun hadv => (hreq' fun e => hadv (e ▸ ho)).trans (hreq hadv)⟩

end Sys2Proof.Machine
end

section
/-! SUPPORT. Executing with another random source (spec/45_execution_cycle.md R169,
spec/41_alu.md R121). -/

namespace Sys2Proof.Machine

variable {s t : State} {xs : List Byte} {n : Nat}

/-- `s` with other contents of the random source: the supplied bytes and the counter of free ones. -/
def State.withRand (s : State) (xs : List Byte) (n : Nat) : State :=
  { s with rand := xs, randDrawn := n }

theorem State.withRand_skipIf (s : State) (b : Bool) :
    (s.withRand xs n).skipIf b = (s.skipIf b).withRand xs n := by
  cases b <;> rfl

theorem State.withRand_advanceIndex (s : State) (k : Nat) :
    (s.withRand xs n).advanceIndex k = (s.advanceIndex k).withRand xs n := by
  cases h : s.inputs.advanceI <;> simp [State.advanceIndex, State.withRand, State.setI, h]

theorem State.withRand_dumpRegs (s : State) (k : Nat) :
    (s.withRand xs n).dumpRegs k = (s.dumpRegs k).withRand xs n := by
  induction k with
  | zero => rfl
  | succ k ih => rw [State.dumpRegs, ih]; rfl

theorem State.withRand_loadRegs (s : State) (k : Nat) :
    (s.withRand xs n).loadRegs k = (s.loadRegs k).withRand xs n := by
  induction k with
  | zero => rfl
  | succ k ih => rw [State.loadRegs, ih]; rfl

theorem State.withRand_push (s : State) (w : Word) :
    (s.withRand xs n).push w = (s.push w).map fun t => t.withRand xs n := by
  by_cases h : s.sp.val < 16
  · rw [s.push_of_lt w h, (s.withRand xs n).push_of_lt w h]; rfl
  · have hfull : s.sp.val = 16 := by omega
    rw [s.push_of_full w hfull, (s.withRand xs n).push_of_full w hfull]; rfl

theorem State.withRand_pop (s : State) :
    (s.withRand xs n).pop = s.pop.map fun p => (p.1, p.2.withRand xs n) := by
  by_cases h : 0 < s.sp.val
  · rw [s.pop_of_pos h, (s.withRand xs n).pop_of_pos h]; rfl
  · have hempty : s.sp.val = 0 := by omega
    rw [s.pop_of_empty hempty, (s.withRand xs n).pop_of_empty hempty]; rfl

/-- Every instruction but CXNN does the same whatever the random source holds. -/
theorem exec_withRand {i : Instr} (hi : ∀ x nn, i ≠ .rnd x nn) (h : exec i s = .next t) :
    exec i (s.withRand xs n) = .next (t.withRand xs n) := by
  cases i with
  | rnd x nn => exact absurd rfl (hi x nn)
  | ret =>
    cases hp : s.pop with
    | none =>
      obtain rfl := Host.Outcome.next.inj ((exec_ret_of_none hp).symm.trans h)
      exact exec_ret_of_none (by rw [State.withRand_pop, hp]; rfl)
    | some p =>
      obtain rfl := Host.Outcome.next.inj ((exec_ret_of_some hp).symm.trans h)
      exact exec_ret_of_some (t := p.2.withRand xs n) (by rw [State.withRand_pop, hp]; rfl)
  | call nnn =>
    cases hp : s.push s.pc with
    | none =>
      obtain rfl := Host.Outcome.next.inj ((exec_call_of_none nnn hp).symm.trans h)
      exact exec_call_of_none nnn ((s.withRand_push s.pc).trans (by rw [hp]; rfl))
    | some u =>
      obtain rfl := Host.Outcome.next.inj ((exec_call_of_some nnn hp).symm.trans h)
      exact exec_call_of_some (t := u.withRand xs n) nnn
        ((s.withRand_push s.pc).trans (by rw [hp]; rfl))
  | ldVxK x =>
    cases hk : s.releasedKey with
    | none =>
      obtain rfl := Host.Outcome.next.inj ((exec_ldVxK_of_none x hk).symm.trans h)
      exact exec_ldVxK_of_none x hk
    | some k =>
      obtain rfl := Host.Outcome.next.inj ((exec_ldVxK_of_some x hk).symm.trans h)
      exact exec_ldVxK_of_some x hk
  | seImm _ _ | sneImm _ _ | seReg _ _ | sneReg _ _ | skp _ | sknp _ =>
    obtain rfl := Host.Outcome.next.inj h
    exact congrArg Host.Outcome.next (s.withRand_skipIf _)
  | ldMemVx x =>
    obtain rfl := Host.Outcome.next.inj h
    rw [← State.withRand_advanceIndex, ← State.withRand_dumpRegs]
    rfl
  | ldVxMem x =>
    obtain rfl := Host.Outcome.next.inj h
    rw [← State.withRand_advanceIndex, ← State.withRand_loadRegs]
    rfl
  | cls | jp _ | jpV0 _ | ldImm _ _ | addImm _ _ | ldReg _ _ | orReg _ _ | andReg _ _ | xorReg _ _
  | addReg _ _ | subReg _ _ | shrReg _ _ | subnReg _ _ | shlReg _ _ | drw _ _ _ | ldVxDt _
  | ldDtVx _ | ldStVx _ | ldI _ | addI _ | ldF _ | ldB _ =>
    obtain rfl := Host.Outcome.next.inj h
    rfl

theorem touched_rand {i : Instr} (h : ∀ x nn, i ≠ .rnd x nn) : (touched s i).rand = false := by
  cases i with
  | rnd x nn => exact absurd rfl (h x nn)
  | _ => rfl

end Sys2Proof.Machine
end

section
/-! The execution cycle (spec/45_execution_cycle.md): the statements. -/

namespace Sys2Proof.Machine

/-- Settles O14: by induction on the run, the end state is the Halted state it started from but for
the pieces the host's operations write, and STEP_REQ is among those written only by
request_advance. -/
theorem haltedIsTerminal : Obligations.HaltedIsTerminal := by
  intro os s t hrun hreset h
  obtain ⟨ht, hreq⟩ := applyAll_of_halted hreset hrun h
  rw [ht]
  exact ⟨hrun, rfl, rfl, rfl, rfl, rfl, rfl, rfl, rfl, rfl, hreq⟩

/-- Settles O8: without a request the gate is closed; a step past its gates takes the request under
STEP_MODE and leaves it without. -/
theorem singleStepGate : Obligations.SingleStepGate := by
  refine ⟨fun s hmode hreq => step_of_gateClosed (State.gateOpen_of_no_request hmode hreq),
    fun s t hrun hmode hreq h => ?_, fun s t hmode h => ?_⟩
  · have hg : s.gateOpen = true := Enabled.gateOpen ⟨hrun, fun _ => hreq⟩
    simpa [hmode] using step_stepReq_of_gateOpen hg h
  · cases hg : s.gateOpen with
    | false => exact Host.Outcome.next.inj ((step_of_gateClosed hg).symm.trans h) ▸ rfl
    | true => simpa [hmode] using step_stepReq_of_gateOpen hg h

/-- Settles O11, by the cases of a step: only a failed fetch, an unknown opcode, and CALL and RET
at the limits of the stack report. -/
theorem stepEmitsAtMostOneReport : Obligations.StepEmitsAtMostOneReport := by
  intro s t h
  rcases step_cases s with ⟨-, hs⟩ | ⟨-, -, hs⟩ | ⟨-, hf, hs⟩ | ⟨-, hf, i, hi, hs⟩
  · obtain rfl := Host.Outcome.next.inj (hs.symm.trans h)
    exact .inl rfl
  · obtain rfl := Host.Outcome.next.inj (hs.symm.trans h)
    obtain ⟨-, -, hreports, -⟩ := s.fetchFails_Raised
    exact .inr ⟨_, _, hreports, .inl ⟨rfl, rfl⟩⟩
  · obtain rfl := Host.Outcome.next.inj (hs.symm.trans h)
    refine .inr ⟨_, _, ?_, .inr ⟨.inl rfl, State.opcodeAt_pc (State.le_of_fetchable hf)⟩⟩
    rw [State.unknown_reports, State.fetched_reports]
  · have hopcode : encode i = opcodeAtPc s :=
      (encode_of_decode hi).trans (State.opcodeAt_pc (State.le_of_fetchable hf))
    have hreports := exec_reports (hs.symm.trans h)
    rw [State.fetched_reports] at hreports
    exact hreports.imp_right fun ⟨c, hc, ht⟩ => ⟨c, _, ht, .inr ⟨.inr hc, hopcode⟩⟩

/-- Settles O23: the row of every other instruction leaves the random source out, and its meaning
never asks it. -/
theorem onlyRandomReadsTheRandomSource : Obligations.OnlyRandomReadsTheRandomSource := by
  intro i s xs n hi
  obtain ⟨t, ht, -, -, -, -, -, -, -, -, -, hrand, -⟩ := exec_frame i s
  obtain ⟨hsupplied, hdrawn⟩ := hrand (touched_rand hi)
  exact ⟨t, ht, hsupplied, hdrawn, exec_withRand hi ht⟩

/-- Settles O6: the fetched state is the one the statement writes out. -/
theorem stepRunsTheDecodedInstruction : Obligations.StepRunsTheDecodedInstruction := by
  intro s i hs hpc hdecode
  rw [step_of_decode hs hpc hdecode, State.fetched_eq_afterGate]

/-- Settles O7: the run gate is closed. -/
theorem stepInHaltedChangesNothing : Obligations.StepInHaltedChangesNothing := fun _ =>
  step_of_halted

/-- Settles O9: the failed fetch raises before PC advances. -/
theorem fetchOutOfBoundsHalts : Obligations.FetchOutOfBoundsHalts := fun s hs hpc =>
  ⟨_, step_of_fetch_out_of_bounds hs hpc, s.fetchFails_Raised⟩

/-- Settles O10: the unknown opcode is raised or reported on the fetched state, whose
HALT_ON_UNKNOWN is the step's. -/
theorem unknownOpcodeHaltsOrIsReported : Obligations.UnknownOpcodeHaltsOrIsReported := by
  intro s hs hpc hdecode
  have hstep := step_of_unknown hs hpc hdecode
  constructor
  · intro hhalt
    refine ⟨_, hstep, ?_⟩
    rw [State.unknown_of_halting _ (s.fetched_inputs ▸ hhalt), State.fetched_eq_afterGate]
    exact State.raise_Raised _ .unknownOpcode _
  · intro hhalt
    rw [hstep, State.unknown_of_not_halting _ (s.fetched_inputs ▸ hhalt),
      State.fetched_eq_afterGate]
    rfl

end Sys2Proof.Machine
end

section
/-! SUPPORT. Every operation completes, a step halts only by raising a condition, and what the
host's operations on the timers and the framebuffer do (spec/60_exceptions.md). -/

namespace Sys2Proof.Machine

variable {s t : State}

/-! ### Every operation completes (R204) -/

theorem step_completes (s : State) : ∃ t, step s = .next t := by
  rcases step_cases s with ⟨-, hs⟩ | ⟨-, -, hs⟩ | ⟨-, -, hs⟩ | ⟨-, -, i, -, hs⟩
  · exact ⟨_, hs⟩
  · exact ⟨_, hs⟩
  · exact ⟨_, hs⟩
  · obtain ⟨t, ht, -⟩ := exec_frame i s.fetched
    exact ⟨t, hs.trans ht⟩

theorem HostOp.apply_completes (o : HostOp) (s : State) : ∃ t, o.apply s = .next t := by
  cases o with
  | step => exact step_completes s
  | reset _ | updateKeys _ | tickTimers | consumeFrame | requestAdvance => exact ⟨_, rfl⟩

theorem applyAll_completes (os : List HostOp) (s : State) : ∃ t, applyAll os s = .next t := by
  induction os generalizing s with
  | nil => exact ⟨s, rfl⟩
  | cons o os ih =>
    obtain ⟨u, hu⟩ := o.apply_completes s
    obtain ⟨t, ht⟩ := ih u
    exact ⟨t, by simp only [applyAll, hu, ht]⟩

/-! ### What halts raises (R189) -/

theorem State.fetched_run (s : State) : s.fetched.run = s.run := by
  simp [State.fetched]

/-- An instruction halts a running core only by raising a condition of the stack: CALL on a full
one, RET on an empty one (R183, R184). -/
theorem exec_Raised_of_halts {i : Instr} (hrun : s.run = .running) (h : exec i s = .next t)
    (hhalt : t.run = .halted) : ∃ c, c ≠ .fetchOutOfBounds ∧ Raised c (encode i) s t := by
  have hne : t.run ≠ s.run := by simp [hrun, hhalt]
  rcases (onlyCallAndReturnTouchTheStack i s t h).2 (.inr (.inl hne)) with rfl | ⟨nnn, rfl⟩
  · by_cases hempty : s.sp.val = 0
    · obtain ⟨u, hu, hraised⟩ := exec_ret_of_empty hempty
      obtain rfl := Host.Outcome.next.inj (hu.symm.trans h)
      exact ⟨_, by decide, hraised⟩
    · obtain ⟨u, hu, -, -, hframe⟩ := exec_ret_of_succ (c := { sp := true, pc := true })
        (k := ⟨s.sp.val - 1, by omega⟩) (Nat.sub_add_cancel (by omega)) rfl rfl
      obtain rfl := Host.Outcome.next.inj (hu.symm.trans h)
      exact absurd (hframe.run_eq rfl) hne
  · by_cases hroom : s.sp.val < 16
    · obtain ⟨u, hu, -, -, -, hframe⟩ := exec_call_of_lt nnn hroom
      obtain rfl := Host.Outcome.next.inj (hu.symm.trans h)
      exact absurd (hframe.run_eq rfl) hne
    · obtain ⟨u, hu, hraised⟩ := exec_call_of_full (s := s) nnn (by omega)
      obtain rfl := Host.Outcome.next.inj (hu.symm.trans h)
      exact ⟨_, by decide, hraised⟩

/-- An unknown opcode halts a running core only by raising UnknownOpcode (R166). -/
theorem State.unknown_Raised_of_halts {op : Word} (hrun : s.run = .running)
    (hhalt : (s.unknown op).run = .halted) : Raised .unknownOpcode op s (s.unknown op) := by
  cases hinput : s.inputs.haltOnUnknown with
  | true => exact s.unknown_of_halting op hinput ▸ s.raise_Raised .unknownOpcode op
  | false =>
    rw [s.unknown_of_not_halting op hinput] at hhalt
    exact absurd (hrun.symm.trans hhalt) (by decide)

/-- A condition other than FetchOutOfBounds is raised on the fetched state, in the words of R191. -/
theorem Raised.of_fetched {c : Condition} {info : Word} (hc : c ≠ .fetchOutOfBounds)
    (h : Raised c info s.fetched t) :
    Raised c info
      { afterGate s with pc := if c = .fetchOutOfBounds then s.pc else s.pc + 2 } t := by
  rwa [if_neg hc, ← State.fetched_eq_afterGate]

/-! ### The timers (R193) -/

@[simp] theorem countDown_toNat (x : Byte) : (countDown x).toNat = x.toNat - 1 :=
  Nat.mod_eq_of_lt (by omega)

theorem State.tickTimers_st_toNat (s : State) : s.tickTimers.st.toNat = s.st.toNat - 1 :=
  countDown_toNat s.st

/-- TONE follows the ST the same tick leaves. -/
theorem State.tickTimers_tone (s : State) :
    s.tickTimers.tone = decide (0 < s.tickTimers.st.toNat) := by
  have hne : s.tickTimers.st ≠ 0 ↔ 0 < s.tickTimers.st.toNat := by bv_omega
  rw [Bool.eq_iff_iff, decide_eq_true_iff]
  exact bne_iff_ne.trans hne

theorem State.tickTimers_iterate_st_toNat (s : State) (k : Nat) :
    (State.tickTimers^[k] s).st.toNat = s.st.toNat - k := by
  induction k with
  | zero => rfl
  | succ k ih => rw [Function.iterate_succ_apply', State.tickTimers_st_toNat, ih, Nat.sub_sub]

/-- The tone lasts one tick less than ST counts, since each tick decrements before it sets TONE
(70_reset_and_hazards.md R222). -/
theorem State.tickTimers_iterate_succ_tone (s : State) (k : Nat) :
    (State.tickTimers^[k + 1] s).tone = decide (k + 1 < s.st.toNat) := by
  rw [Function.iterate_succ_apply', State.tickTimers_tone,
    ← Function.iterate_succ_apply' State.tickTimers, State.tickTimers_iterate_st_toNat,
    decide_eq_decide]
  exact Nat.sub_pos_iff_lt

/-! ### The frame handed over (R196) -/

theorem State.consumeFrame_of_dirty (h : s.dirty = true) :
    s.consumeFrame = { s with frames := s.frames ++ [s.fb], dirty := false } := if_pos h

theorem State.consumeFrame_of_not_dirty (h : s.dirty = false) : s.consumeFrame = s :=
  if_neg (by simp [h])

theorem State.consumeFrame_dirty (s : State) : s.consumeFrame.dirty = false := by
  cases h : s.dirty with
  | true => rw [State.consumeFrame_of_dirty h]
  | false => rw [State.consumeFrame_of_not_dirty h, h]

end Sys2Proof.Machine
end

section
/-! The host's operations and the conditions (spec/60_exceptions.md): the statements. -/

namespace Sys2Proof.Machine

/-- Settles O13: a step by its cases, a run by induction on the list of operations. -/
theorem everyOperationCompletes : Obligations.EveryOperationCompletes :=
  ⟨step_completes, applyAll_completes⟩

/-- Settles O12, by the cases of a step: a failed fetch raises before PC advances; an unknown opcode
and an instruction raise, where they halt, on the fetched state. -/
theorem haltingIsPrecise : Obligations.HaltingIsPrecise := by
  intro s t hrun h hhalt
  have hfetched : s.fetched.run = .running := s.fetched_run.trans hrun
  rcases step_cases s with ⟨-, hs⟩ | ⟨-, -, hs⟩ | ⟨-, -, hs⟩ | ⟨-, -, i, -, hs⟩
  · obtain rfl := Host.Outcome.next.inj (hs.symm.trans h)
    exact absurd (hrun.symm.trans hhalt) (by decide)
  · obtain rfl := Host.Outcome.next.inj (hs.symm.trans h)
    exact ⟨.fetchOutOfBounds, s.pc, s.fetchFails_Raised⟩
  · obtain rfl := Host.Outcome.next.inj (hs.symm.trans h)
    exact ⟨_, _, .of_fetched (by decide) (State.unknown_Raised_of_halts hfetched hhalt)⟩
  · obtain ⟨c, hc, hraised⟩ := exec_Raised_of_halts hfetched (hs.symm.trans h) hhalt
    exact ⟨c, _, .of_fetched hc hraised⟩

/-- Settles O54: FX18 puts V[X] in ST, and the ticks count it down. -/
theorem toneSoundsOneTickLessThanSt : Obligations.ToneSoundsOneTickLessThanSt := by
  intro x s t k h hk
  obtain rfl : s.setSt (s.reg x) = t := Host.Outcome.next.inj h
  obtain ⟨j, rfl⟩ := Nat.exists_eq_add_of_le' hk
  exact ⟨State.tickTimers_iterate_st_toNat _ _, State.tickTimers_iterate_succ_tone _ j⟩

/-- Settles O53: two counts down, and TONE from the second. -/
theorem tickCountsTimersDown : Obligations.TickCountsTimersDown := fun s =>
  ⟨countDown_toNat s.dt, s.tickTimers_st_toNat, by rw [s.tickTimers_tone, decide_eq_true_iff], rfl⟩

/-- Settles O55: after the same vector twice both snapshots are that vector, and no key is both held
and not held in it. -/
theorem updateKeysShiftsSnapshots : Obligations.UpdateKeysShiftsSnapshots := fun _ new =>
  ⟨rfl, rfl, rfl, fun k _ => Bool.and_not_self (new.getLsbD k)⟩

/-- Settles O56: the two branches of consume_frame, which leaves DIRTY clear either way, and one
write of STEP_REQ. -/
theorem consumeFrameAndRequestAdvance : Obligations.ConsumeFrameAndRequestAdvance := fun s =>
  ⟨State.consumeFrame_of_dirty, State.consumeFrame_of_not_dirty,
    State.consumeFrame_of_not_dirty s.consumeFrame_dirty, rfl, rfl⟩

end Sys2Proof.Machine
end

section
/-! The failed load (spec/70_reset_and_hazards.md R212): the statement. -/

namespace Sys2Proof.Machine

/-- Settles O58: either failure raises its condition on the cleared state, and raising writes RUN,
HALT_REASON and one report. -/
theorem failedLoadHalts : Obligations.FailedLoadHalts := by
  rintro s rom c (⟨rfl, rfl⟩ | ⟨bytes, rfl, hlong, rfl⟩)
  · exact s.resetWith_none
  · exact s.resetWith_of_long bytes hlong

end Sys2Proof.Machine
end
